-- ==== Sys2Proof/Word.lean ====
section
/-!
DEFINITION. The word types of the framer block (spec/00_scope.md R7, R8: bits numbered 7 down to 0, all
quantities unsigned). Every bit-field and byte-order helper stands in Decode.lean or Machine/, not here.
-/

namespace Sys2Proof

/-- One byte of a frame, a packet or the register image (R101). -/
abbrev Byte := BitVec 8

/-- A 16-bit operand: the module address, the key, a buffer length (R21, R29, R122). -/
abbrev Half := BitVec 16

/-- A 32-bit operand: the poll interval, a codec label, a segment counter (R35, R43, R142). -/
abbrev Word := BitVec 32

end Sys2Proof
end

