-- ==== Sys2Proof/Machine/Codec.lean ====
section
/-!
DEFINITION. The codec tables (spec/40_codec_tables.md R140 to R159): the lookups over any table, the default
instance of `CODEC` (R143, log 8), and the well-formedness every instance has (R144).
-/

namespace Sys2Proof.Machine

/-- A finite list of rows (code, label) (R140, R142). -/
abbrev CodecTable := List (Byte × Word)

/-- The six tables of R140. -/
structure Codec where
  baud : CodecTable
  parity : CodecTable
  air : CodecTable
  packet : CodecTable
  power : CodecTable
  wor : CodecTable
deriving DecidableEq, Repr

/-- The code of a label's row, if there is one: exact match only (R141). -/
def codeOf? (t : CodecTable) (label : Word) : Option Byte :=
  (t.find? (fun row => row.2 == label)).map Prod.fst

/-- The label of a code's row, if there is one: exact match only (R141). -/
def labelOf? (t : CodecTable) (code : Byte) : Option Word :=
  (t.find? (fun row => row.1 == code)).map Prod.snd

/-- The sentinel "not found" of the code-to-native lookup (R158). -/
def notFound : Byte := 0xFF

/-- `code_of(t, label)` for a label the table holds (R144); the sentinel where it does not, which no well-formed
table reaches (log 22). -/
def codeOf (t : CodecTable) (label : Word) : Byte := (codeOf? t label).getD notFound

/-- `L2C`: the code of the label, or the code of the table's miss default (R145 to R151). -/
def labelToCode (t : CodecTable) (missDefault label : Word) : Byte :=
  (codeOf? t label).getD (codeOf t missDefault)

/-- `C2L`: `found` and the label, or not found (R152 to R157). -/
def codeToLabel (t : CodecTable) (code : Byte) : Option Word := labelOf? t code

/-- `C2N`: the native identifier of a code is the code itself, 0xFF where the table has no row (R158, R159). -/
def codeToNative (t : CodecTable) (code : Byte) : Byte :=
  if (labelOf? t code).isSome then code else notFound

/-! ### The miss defaults of R145 -/

def baudDefault : Word := 9600
def parityDefault : Word := 0
def airDefault : Word := 2400
def packetDefault : Word := 32
def powerDefault : Word := 22
def worDefault : Word := 2000

/-- The default instance of `CODEC` (R143; code values PRESUMED from general knowledge by the spec, log 8). -/
def codec : Codec where
  baud := [(0, 1200), (1, 2400), (2, 4800), (3, 9600), (4, 19200), (5, 38400), (6, 57600), (7, 115200)]
  parity := [(0, 0), (1, 1), (2, 2)]
  air := [(0, 300), (1, 1200), (2, 2400), (3, 4800), (4, 9600), (5, 19200), (6, 38400), (7, 62500)]
  packet := [(0, 240), (1, 128), (2, 64), (3, 32)]
  power := [(0, 22), (1, 17), (2, 13), (3, 10)]
  wor := [(0, 500), (1, 1000), (2, 1500), (3, 2000), (4, 2500), (5, 3000), (6, 3500), (7, 4000)]

/-! ### Well-formedness of an instance (R144) -/

/-- Within one table no code and no label appears twice, and every code fits the field's width. -/
def tableWf (width : Nat) (t : CodecTable) : Bool :=
  decide (t.map Prod.fst).Nodup && decide (t.map Prod.snd).Nodup &&
    t.all (fun row => decide (row.1.toNat < 2 ^ width))

def hasLabel (t : CodecTable) (label : Word) : Bool := (codeOf? t label).isSome

/-- The table's labels are exactly these. -/
def labelsAre (t : CodecTable) (ls : List Word) : Bool :=
  t.all (fun row => ls.contains row.2) && ls.all (hasLabel t)

/-- The conditions of R144 on a `CODEC` instance. -/
def codecWf (c : Codec) : Bool :=
  tableWf 3 c.baud && tableWf 2 c.parity && tableWf 3 c.air && tableWf 2 c.packet &&
  tableWf 2 c.power && tableWf 3 c.wor &&
  hasLabel c.baud 9600 && hasLabel c.parity 0 && hasLabel c.air 2400 && hasLabel c.wor 2000 &&
  labelsAre c.packet [32, 64, 128, 240] && labelsAre c.power [10, 13, 17, 22] &&
  decide (c.wor.length = 8) && hasLabel c.wor 500 && hasLabel c.wor 4000 &&
  c.wor.all (fun row => decide (500 ≤ row.2.toNat) && decide (row.2.toNat ≤ 4000))

end Sys2Proof.Machine
end

