-- ==== Sys2Proof/Machine/Port.lean ====
section
/-!
DEFINITION. Port events and the environment's answers (spec/00_scope.md R11, spec/60_exceptions.md R363, R364).
-/

namespace Sys2Proof.Machine

/-- The two mode-select lines (R18, R364). -/
inductive Line where
  | a
  | b
deriving DecidableEq, Repr

/-- The port-event primitives of R11. -/
inductive PortEvent where
  /-- `G_RD()`: read the busy/ready line. -/
  | gRd
  /-- `G_WR(l, v)`: drive a mode-select output. -/
  | gWr (l : Line) (v : Bool)
  /-- `U_CFG(b, p)`: program the UART's baud and parity codes (3 and 2 bits, R363). -/
  | uCfg (b : BitVec 3) (p : BitVec 2)
  /-- `U_RULE(m, t)`: program the UART read rule. -/
  | uRule (m t : Nat)
  /-- `U_WR(l)`: hand a byte list to the UART transmitter. -/
  | uWr (l : List Byte)
  /-- `U_FL()`: flush. -/
  | uFl
  /-- `U_RD(k)`: blocking read of exactly `k` bytes. -/
  | uRd (k : Nat)
  /-- `DLY(t)`: at least `us` microseconds pass. -/
  | dly (us : Nat)
deriving DecidableEq, Repr

/-- The answers of R11; `none` stands for a delay, which has no answer. -/
inductive Answer where
  | lvl (v : Bool)
  | ok
  | err
  | cnt (k : Nat)
  | bytes (l : List Byte)
  | none
deriving DecidableEq, Repr

/-- What the environment may answer to `G_RD`. -/
inductive BusyAnswer where
  | lvl (v : Bool)
  | err
deriving DecidableEq, Repr, Inhabited

/-- What the environment may answer to `G_WR`, `U_CFG`, `U_RULE`, `U_FL`. -/
inductive AckAnswer where
  | ok
  | err
deriving DecidableEq, Repr, Inhabited

/-- What the environment may answer to `U_WR`. -/
inductive CountAnswer where
  | cnt (k : Nat)
  | err
deriving DecidableEq, Repr, Inhabited

/-- What the environment may answer to `U_RD`. -/
inductive ReadAnswer where
  | bytes (l : List Byte)
  | err
deriving DecidableEq, Repr, Inhabited

/-- One port event with its answer, as the trace records it (R83). -/
structure Event where
  port : PortEvent
  answer : Answer
deriving DecidableEq, Repr

end Sys2Proof.Machine
end

