-- ==== Sys2Proof/Config.lean ====
section
/-!
DEFINITION. What the spec leaves open: the OPEN parameters of spec/00_scope.md R6 and the free values, each a
constant without a body, so that no proof can see its value (log 1, log 12, log 15). The parameters to which the
spec gives a value stand in Machine/Params.lean.
-/

namespace Sys2Proof.Config

/-- `SEG_END(c, rxb, i)` of 44_telemetry.md R302, OPEN. Its second argument is `rxb[0..i]`, the only part of the
buffer it may depend on. -/
opaque segEnd : Bool → List Byte → Bool

/-- `SEG_DELIM` of R302, OPEN: the delimiter of the reference instance. -/
opaque segDelim : Byte

/-- `MAX_SEG - 1`: MAX_SEG is OPEN, 1 to 255 (R6). -/
opaque maxSegPred : Fin 255

/-- `RXBUF_MAX - 1`: RXBUF_MAX is OPEN, 1 to 65535 (R6). -/
opaque rxbufMaxPred : Fin 65535

/-- `IDLE_UNIT` in microseconds, OPEN (R6, R222): no rule of the block reads it. -/
opaque idleUnit : Nat

/-- `CLK_HZ`, OPEN (R6, R13): used only to turn a duration into cycles. -/
opaque clkHz : Nat

/-- The environment's answer to a `G_RD` that no queued answer covers (R12, log 1). -/
opaque freeBusy : Nat → Machine.BusyAnswer

/-- The environment's answer to a `G_WR`, `U_CFG`, `U_RULE` or `U_FL` that no queued answer covers (R12, log 1). -/
opaque freeAck : Nat → Machine.AckAnswer

/-- The environment's answer to a `U_WR` that no queued answer covers (R12, log 1). -/
opaque freeCount : Nat → Machine.CountAnswer

/-- The environment's answer to a `U_RD` that no queued answer covers (R12, log 1). -/
opaque freeRead : Nat → Machine.ReadAnswer

/-- A byte to which the spec gives no value (10_state.md R66, log 15). -/
opaque freeByte : Nat → Byte

end Sys2Proof.Config
end

