-- ==== Sys2Proof/Machine/Params.lean ====
section
/-!
DEFINITION. The parameters of spec/00_scope.md R6 to which the source or the spec gives a value, and the two
capacities read from Config.
-/

namespace Sys2Proof.Machine

/-- `T_POLL_DEFAULT`: 100 µs (R6). -/
def tPollDefault : Word := 100

/-- `T_SETTLE`: 2 ms, in microseconds (R6, R223 step 7). -/
def tSettle : Nat := 2000

/-- `IDLE_GAP_UNITS`: 50 (R6, R222). -/
def idleGapUnits : Nat := 50

/-- `MIN_IMM` and `MIN_GAP` (R6; the spec's decision D12, log 11). -/
def minImm : Nat := 0

def minGap : Nat := 0

/-- `FRAME_MAX`: 12 bytes (R6, R39). -/
def frameMax : Nat := 12

/-- `READY_LEVEL`: 1 (R6, R224; the spec's decision D5 from general knowledge, log 9). -/
def readyLevel : Bool := true

/-- `FLUSH_ON_READ`: false (R6; decision D16, log 11). -/
def flushOnRead : Bool := false

/-- `CARRY_SAMPLE_RECORDED`: true (R6; decision D23, log 11). -/
def carrySampleRecorded : Bool := true

/-- `NOISE_ADDR`: 0 (R6; decision D20, log 11). -/
def noiseAddr : Byte := 0

/-- `MAX_SEG`, at least 1 and at most 255, otherwise free (R6, R45). -/
def maxSeg : Nat := Config.maxSegPred.val + 1

/-- `RXBUF_MAX`, at least 1 and at most 65535, otherwise free (R6, R48). -/
def rxbufMax : Nat := Config.rxbufMaxPred.val + 1

/-- A duration in clock cycles: `ceil(t * CLK_HZ)`, a lower bound (R13). -/
def delayCycles (us : Nat) : Nat := (us * Config.clkHz + 999999) / 1000000

end Sys2Proof.Machine
end

