-- ==== Sys2Proof/Syntax.lean ====
section
/-!
DEFINITION. The instructions: one constructor for each row of spec/opcode_table.json (4 wire rows, 63 host
operations), with the operands of spec/30_encoding.md R102 to R105 and R122.
-/

namespace Sys2Proof

/-- The 9-byte register image, module addresses 0x00 to 0x08 in order (10_state.md R50 to R59). -/
structure Image where
  addh : Byte
  addl : Byte
  netid : Byte
  reg0 : Byte
  reg1 : Byte
  reg2 : Byte
  reg3 : Byte
  keyh : Byte
  keyl : Byte
deriving DecidableEq, Repr

/-- The 7-byte identification block PID0 to PID6, opaque bytes (10_state.md R60, 41_register_image.md R177). -/
structure Pid where
  pid0 : Byte
  pid1 : Byte
  pid2 : Byte
  pid3 : Byte
  pid4 : Byte
  pid5 : Byte
  pid6 : Byte
deriving DecidableEq, Repr

/-- Where an instruction's bytes travel (30_encoding.md R100, R105, R120): the host command port, the wire from
the block to the module, the wire from the module to the block. -/
inductive Space where
  | host
  | request
  | reply
deriving DecidableEq, Repr

/-- One constructor per row of spec/opcode_table.json. Operands stand as the packet or frame carries them: a
value whose legal range is narrower than its byte (R122) is kept as the byte, and its check is part of the
meaning (R124, R179, R196). -/
inductive Instr where
  /-- Wire format W (R102): the exchange `MemWrite(addr, len, data)` of R10. -/
  | wireW (addr : Byte) (data : List Byte)
  /-- Wire format R (R103): the exchange `MemRead(addr, len)` of R10. -/
  | wireR (addr len : Byte)
  /-- Wire format Q (R104): the read exchange of the RSSI channel. -/
  | wireQ (addr len : Byte)
  /-- The reply layout (R105): three header bytes and the data. -/
  | wireReply (h0 h1 h2 : Byte) (data : List Byte)
  | modeNormal
  | modeWor
  | modeConfig
  | modeSleep
  | setPoll (us : Word)
  | regWrite (addr : Byte) (data : List Byte)
  | regRead (addr len : Byte)
  | rssiRead (addr len : Byte)
  | eepromWrite
  | eepromRead
  | noiseInit
  | tlmExtract (rxb : List Byte)
  | tlmReset
  | txSegInc
  | tlmGet
  | getRecord
  | setRecord (img : Image)
  | l2cBaud (label : Word)
  | l2cParity (label : Word)
  | l2cAir (label : Word)
  | l2cPacket (label : Word)
  | l2cPower (label : Word)
  | l2cWor (label : Word)
  | c2lBaud (code : Byte)
  | c2lParity (code : Byte)
  | c2lAir (code : Byte)
  | c2lPacket (code : Byte)
  | c2lPower (code : Byte)
  | c2lWor (code : Byte)
  | c2nBaud (code : Byte)
  | c2nParity (code : Byte)
  | setAddr (v : Half)
  | setNetid (v : Byte)
  | setBaud (c : Byte)
  | setAir (c : Byte)
  | setParity (c : Byte)
  | setPacket (c : Byte)
  | setPower (c : Byte)
  | setChannel (v : Byte)
  | setKey (v : Half)
  | setNoiseEn (b : Byte)
  | setRssiEn (b : Byte)
  | setFixed (b : Byte)
  | setRepeater (b : Byte)
  | setLbt (b : Byte)
  | setWor (b : Byte)
  | setWorCycle (c : Byte)
  | commitAddr (v : Half)
  | commitNetid (v : Byte)
  | commitBaud (c : Byte)
  | commitAir (c : Byte)
  | commitParity (c : Byte)
  | commitPacket (c : Byte)
  | commitPower (c : Byte)
  | commitChannel (v : Byte)
  | commitKey (v : Half)
  | commitNoiseEn (b : Byte)
  | commitRssiEn (b : Byte)
  | commitFixed (b : Byte)
  | commitRepeater (b : Byte)
  | commitLbt (b : Byte)
  | commitWor (b : Byte)
  | commitWorCycle (c : Byte)
deriving DecidableEq, Repr

/-- Which port an instruction's bytes travel on: only the four wire rows are not host operations. -/
def Instr.space : Instr → Space
  | .wireW _ _ | .wireR _ _ | .wireQ _ _ => .request
  | .wireReply _ _ _ _ => .reply
  | .modeNormal | .modeWor | .modeConfig | .modeSleep | .setPoll _
  | .regWrite _ _ | .regRead _ _ | .rssiRead _ _ | .eepromWrite | .eepromRead | .noiseInit
  | .tlmExtract _ | .tlmReset | .txSegInc | .tlmGet | .getRecord | .setRecord _
  | .l2cBaud _ | .l2cParity _ | .l2cAir _ | .l2cPacket _ | .l2cPower _ | .l2cWor _
  | .c2lBaud _ | .c2lParity _ | .c2lAir _ | .c2lPacket _ | .c2lPower _ | .c2lWor _
  | .c2nBaud _ | .c2nParity _
  | .setAddr _ | .setNetid _ | .setBaud _ | .setAir _ | .setParity _ | .setPacket _ | .setPower _
  | .setChannel _ | .setKey _ | .setNoiseEn _ | .setRssiEn _ | .setFixed _ | .setRepeater _
  | .setLbt _ | .setWor _ | .setWorCycle _
  | .commitAddr _ | .commitNetid _ | .commitBaud _ | .commitAir _ | .commitParity _ | .commitPacket _
  | .commitPower _ | .commitChannel _ | .commitKey _ | .commitNoiseEn _ | .commitRssiEn _
  | .commitFixed _ | .commitRepeater _ | .commitLbt _ | .commitWor _ | .commitWorCycle _ => .host

end Sys2Proof
end

