-- ==== Sys2Proof/Machine/State.lean ====
section
/-!
DEFINITION. The machine's state as plain data, its value after reset (spec/10_state.md R20 to R66), and the
reasons a step can stop.
-/

namespace Sys2Proof.Machine

/-- The sixteen fields of the Configuration Record, enumerated fields as the module's binary codes (R20 to R31). -/
structure Record where
  addr : Half
  netid : Byte
  baud : BitVec 3
  air : BitVec 3
  parity : BitVec 2
  packet : BitVec 2
  power : BitVec 2
  channel : Byte
  key : Half
  noiseEn : Bool
  rssiEn : Bool
  fixed : Bool
  repeater : Bool
  lbt : Bool
  wor : Bool
  worCycle : BitVec 3
deriving DecidableEq, Repr

/-- The four operating modes (R220). -/
inductive Mode where
  | normal
  | wor
  | config
  | sleep
deriving DecidableEq, Repr

/-- A payload range of the current receive buffer, both ends inclusive (R46). -/
structure Segment where
  first : Nat
  last : Nat
deriving DecidableEq, Repr

/-- The values that the steps of a `TLM_EXTRACT` hand on to one another (R304): `payload`, `expect`, `c`, `start`.
They live no longer than the call (R48). -/
structure Scan where
  /-- The payload found so far. -/
  payload : List Byte
  /-- The next byte is a telemetry byte. -/
  expect : Bool
  /-- `c`: the carry-in bit of the call. -/
  carryIn : Bool
  /-- First index of the segment that is open. -/
  start : Option Nat
deriving DecidableEq, Repr

/-- Which step of an operation is about to execute (R40): `step` numbers the operation's own rule, `calls` the
steps inside the operations it called, outermost first (the model's own part, log 3), `sub` the step of R223
inside a mode transition. -/
structure Loc where
  step : Nat
  calls : List Nat
  sub : Option Nat
deriving DecidableEq, Repr

/-- The sequencer's phase, the block's program counter (R40). -/
inductive Phase where
  | idle
  | run (op : Instr) (loc : Loc)
deriving DecidableEq, Repr

/-- Everything the spec gives the block, then what it lets a model track of the environment (R62, R36), then
the ports' inputs and outputs (log 1, log 6, log 17, log 18). -/
structure State where
  /-- The Configuration Record (R20). -/
  record : Record
  /-- `rec.pid` with `rec.pid_valid`: no value while not valid (R32, R66, log 14). -/
  pid : Option Pid
  /-- The delay between two reads of BUSY, in µs (R35). -/
  pollInterval : Word
  /-- The output latch of select-A (R36). -/
  mA : Bool
  /-- The output latch of select-B (R36). -/
  mB : Bool
  /-- The frame being sent; its length is `txlen` (R39). -/
  txf : List Byte
  /-- The bytes a `U_RD` returned; its length is `rxlen` (R39). -/
  rxf : List Byte
  /-- The sequencer (R40). -/
  phase : Phase
  /-- `b` of a transition, from its step 1 to its step 5 (R223). -/
  tb : BitVec 3
  /-- `p` of a transition, from its step 1 to its step 5 (R223). -/
  tp : BitVec 2
  /-- The staged record of a set-and-commit (R196, R274). -/
  staged : Record
  /-- The image an EEPROM operation keeps between its steps (R274, R276). -/
  img : Image
  /-- The working values of a `TLM_EXTRACT` between its steps (R304, log 13). -/
  scan : Scan
  /-- "First byte is telemetry" carry flag (R42). -/
  tlmCarry : Bool
  /-- Running count of received segments (R43). -/
  rxSegments : Word
  /-- Running count of sent segments (R43). -/
  txSegments : Word
  /-- `floor_raw` with `floor_valid`: no value while not valid (R44, R66, log 14). -/
  floor : Option Byte
  /-- Samples of the last `TLM_EXTRACT`; the length is `nsmp` (R45). -/
  smp : List Byte
  /-- Closed segments of the last `TLM_EXTRACT`; the length is `nseg` (R46). -/
  seg : List Segment
  /-- The trailing run that no segment end closed (R46). -/
  tail : Option Segment
  /-- Bit 0 DEFERRED, bit 1 OVERFLOW (R47). -/
  diag : BitVec 2
  /-- Environment: arguments of the last successful `U_CFG` since reset, if any (R62, R353, log 16). -/
  uartCfg : Option (BitVec 3 × BitVec 2)
  /-- Environment: the last `U_CFG` was answered `ok`; after an `err` answer the setting is unknown (R62, log 16). -/
  uartCfgKnown : Bool
  /-- Environment: arguments of the last successful `U_RULE` since reset, if any (R62, R353, log 16). -/
  uartRule : Option (Nat × Nat)
  /-- Environment: the last `U_RULE` was answered `ok`; after an `err` answer the rule is unknown (R62, log 16). -/
  uartRuleKnown : Bool
  /-- Environment: the level of line select-A; `none` is unknown (R36, R63, log 16). -/
  lineA : Option Bool
  /-- Environment: the level of line select-B; `none` is unknown (R36, R63, log 16). -/
  lineB : Option Bool
  /-- Input: packets the host has yet to offer; the head is offered now (R120, R121, log 6). -/
  hostCmds : List (List Byte)
  /-- Input: coming answers to `G_RD` (R12, log 1). -/
  busyIn : List BusyAnswer
  /-- Input: coming answers to `G_WR`, `U_CFG`, `U_RULE`, `U_FL` (R12, log 1). -/
  ackIn : List AckAnswer
  /-- Input: coming answers to `U_WR` (R12, log 1). -/
  countIn : List CountAnswer
  /-- Input: coming answers to `U_RD` (R12, log 1). -/
  readIn : List ReadAnswer
  /-- Input: samples of the reset input for the coming steps (R380, R382, log 18). -/
  resetPin : List Bool
  /-- Output: response packets, newest first (R123, log 17). -/
  responses : List (List Byte)
  /-- Output: port events with their answers, newest first (R83, R404, log 17). -/
  trace : List Event
  /-- The model's own: how many free values were used (log 15). -/
  frees : Nat
deriving DecidableEq, Repr

/-- Why the machine stops with a fault. The spec's own faults (R341) are no stops: they end an operation with a
response and the machine goes on (R340, R352). -/
inductive Fault where
  /-- Raised by the sequencer when `phase` names a step that is not in the step list of the operation. No run
  reaches such a state (log 25); stopping there is safe. -/
  | badPhase
deriving DecidableEq, Repr

/-- Why an instruction has no meaning. -/
inductive Refusal where
  /-- Raised by an arm of `exec` whose instruction has no meaning yet; no arm is such; safe. -/
  | notModelled (mnemonic : String)
deriving DecidableEq, Repr

/-- The record at reset: the manufacturer defaults, and 0 where the source gives none (R65). -/
def recordReset : Record where
  addr := 0
  netid := 0
  baud := (codeOf codec.baud 9600).setWidth 3
  air := (codeOf codec.air 2400).setWidth 3
  parity := (codeOf codec.parity 0).setWidth 2
  packet := (codeOf codec.packet 240).setWidth 2
  power := (codeOf codec.power 22).setWidth 2
  channel := 0x32
  key := 0
  noiseEn := false
  rssiEn := false
  fixed := false
  repeater := false
  lbt := false
  wor := false
  worCycle := (codeOf codec.wor 2000).setWidth 3

/-- No `TLM_EXTRACT` is in progress: no working values, nothing kept of a buffer (R48). -/
def scanEmpty : Scan where
  payload := []
  expect := false
  carryIn := false
  start := none

/-- The machine right after reset (R65, R380, R381). The working fields `txf`, `rxf`, `tb`, `tp`, `staged`, `img`,
`scan` have no reset value in the spec: log 13. -/
def State.reset : State where
  record := recordReset
  pid := none
  pollInterval := tPollDefault
  mA := false
  mB := false
  txf := []
  rxf := []
  phase := .idle
  tb := 0
  tp := 0
  staged := recordReset
  img := ⟨0, 0, 0, 0, 0, 0, 0, 0, 0⟩
  scan := scanEmpty
  tlmCarry := false
  rxSegments := 0
  txSegments := 0
  floor := none
  smp := []
  seg := []
  tail := none
  diag := 0
  uartCfg := none
  uartCfgKnown := false
  uartRule := none
  uartRuleKnown := false
  lineA := some false
  lineB := some false
  hostCmds := []
  busyIn := []
  ackIn := []
  countIn := []
  readIn := []
  resetPin := []
  responses := []
  trace := []
  frees := 0

end Sys2Proof.Machine
end

