-- ==== Sys2Proof/Machine/Flags.lean ====
section
/-!
DEFINITION. The single-bit status state and every value computed for it (spec/10_state.md R37, R42, R47, R49;
spec/60_exceptions.md R341): the block has no arithmetic condition codes.
-/

namespace Sys2Proof.Machine

/-- The source's fault classes (R341). -/
inductive FaultClass where
  | invalidArgument
  | addressRange
  | ioFault
  | protocolFault
  /-- Reserved: no operation raises it (R345). -/
  | resourceFault
deriving DecidableEq, Repr

/-- Status 0 (R341). -/
def statusDone : Byte := 0

/-- Status codes 1 to 5 (R341). -/
def faultCode : FaultClass → Byte
  | .invalidArgument => 1
  | .addressRange => 2
  | .ioFault => 3
  | .protocolFault => 4
  | .resourceFault => 5

/-- A flag as a response byte, 0 or 1 (R123). -/
def flagByte (b : Bool) : Byte := if b then 1 else 0

/-- `rec.pid_valid` (R32). -/
def pidValid (s : State) : Bool := s.pid.isSome

/-- `floor_valid` (R44). -/
def floorValid (s : State) : Bool := s.floor.isSome

/-- `diag[1:0]` from DEFERRED and OVERFLOW (R47, R310, R311). -/
def diagOf (deferred overflow : Bool) : BitVec 2 := BitVec.ofBool overflow ++ BitVec.ofBool deferred

/-- `diag[0]`, DEFERRED (R47). -/
def diagDeferred (d : BitVec 2) : Bool := d.getLsbD 0

/-- `diag[1]`, OVERFLOW (R47). -/
def diagOverflow (d : BitVec 2) : Bool := d.getLsbD 1

/-- `diag` as a response byte: bits 1:0, zeros above (R123). -/
def diagByte (d : BitVec 2) : Byte := d.setWidth 8

/-- Pin levels (select-A, select-B) of a mode (R221). -/
def pins : Mode → Bool × Bool
  | .normal => (false, false)
  | .wor => (true, false)
  | .config => (false, true)
  | .sleep => (true, true)

/-- The operating mode derived from the latches (R37). -/
def modeOf (a b : Bool) : Mode :=
  match a, b with
  | false, false => .normal
  | true, false => .wor
  | false, true => .config
  | true, true => .sleep

/-- Normal and Wor are the transparent modes (R17, R222). -/
def Mode.transparent : Mode → Bool
  | .normal | .wor => true
  | .config | .sleep => false

end Sys2Proof.Machine
end

