-- ==== Sys2Proof/Machine/Extractor.lean ====
section
/-!
DEFINITION. The telemetry extractor (spec/44_telemetry.md R302, R304 to R312) and what each of the seven steps of
`TLM_EXTRACT` does to the state.
-/

namespace Sys2Proof.Machine

/-! ### The extractor, for any `SEG_END`, capacity and carry parameter -/

/-- What the loop of R304 step 3 carries from byte to byte. -/
structure Cursor where
  /-- The next byte is a telemetry byte. -/
  expect : Bool
  /-- First index of the segment that is open. -/
  start : Option Nat
  payload : List Byte
  smp : List Byte
  seg : List Segment
  overflow : Bool
  rxSegments : Word
deriving DecidableEq, Repr

/-- The parameters of the extractor (R6): `SEG_END` with the call's carry bit applied, `MAX_SEG`,
`CARRY_SAMPLE_RECORDED`. -/
structure ExtractParams where
  segEnd : List Byte → Bool
  maxSeg : Nat
  carryRecorded : Bool

/-- A telemetry byte (R305, R306, R311): recorded as a sample while there is room. -/
def telemetryByte (q : ExtractParams) (i : Nat) (b : Byte) (c : Cursor) : Cursor :=
  if 0 < i ∨ q.carryRecorded = true then
    if c.smp.length < q.maxSeg then { c with smp := c.smp ++ [b], expect := false }
    else { c with overflow := true, expect := false }
  else { c with expect := false }

/-- A segment end at index `i` (R304, R307, R311): the segment is stored while there is room, and counted. -/
def closeSegment (q : ExtractParams) (first i : Nat) (c : Cursor) : Cursor :=
  if c.seg.length < q.maxSeg then
    { c with seg := c.seg ++ [⟨first, i⟩], rxSegments := c.rxSegments + 1, start := none, expect := true }
  else
    { c with overflow := true, rxSegments := c.rxSegments + 1, start := none, expect := true }

/-- A payload byte; `upTo` is `rxb[0..i]` (R302, R304). -/
def payloadByte (q : ExtractParams) (i : Nat) (upTo : List Byte) (b : Byte) (c : Cursor) : Cursor :=
  let first := c.start.getD i
  let c' := { c with payload := c.payload ++ [b], start := some first }
  if q.segEnd upTo then closeSegment q first i c' else c'

/-- One turn of the loop of R304 step 3. -/
def extractByte (q : ExtractParams) (i : Nat) (upTo : List Byte) (b : Byte) (c : Cursor) : Cursor :=
  if c.expect then telemetryByte q i b c else payloadByte q i upTo b c

/-- R304 step 3 over the bytes still to come; `before` are the bytes already taken, `rxb[0 .. i-1]`. -/
def extractLoop (q : ExtractParams) (before : List Byte) (c : Cursor) : List Byte → Cursor
  | [] => c
  | b :: rest =>
    extractLoop q (before ++ [b]) (extractByte q before.length (before ++ [b]) b c) rest

/-- R304 steps 1 and 2. -/
def startCursor (carry : Bool) (rxSegments : Word) : Cursor where
  expect := carry
  start := none
  payload := []
  smp := []
  seg := []
  overflow := false
  rxSegments := rxSegments

/-- The loop of R304 over a whole buffer. -/
def extract (q : ExtractParams) (carry : Bool) (rxSegments : Word) (rxb : List Byte) : Cursor :=
  extractLoop q [] (startCursor carry rxSegments) rxb

/-- The trailing run after a whole buffer of `n` bytes (R304 step 4, R308). -/
def cursorTail (c : Cursor) (n : Nat) : Option Segment := c.start.map (fun first => ⟨first, n - 1⟩)

/-- The reference instance of `SEG_END` (R302): the byte equals the delimiter. -/
def segEndByDelim (delim : Byte) (upTo : List Byte) : Bool := upTo.getLast? == some delim

/-- The reference instance with the OPEN delimiter of Config (R302); no meaning uses it. -/
def segEndReference (_carry : Bool) (upTo : List Byte) : Bool := segEndByDelim Config.segDelim upTo

/-- The block's own parameters (R6), for a call whose carry-in is `carry`. -/
def blockParams (carry : Bool) : ExtractParams where
  segEnd := Config.segEnd carry
  maxSeg := maxSeg
  carryRecorded := carrySampleRecorded

/-! ### The seven steps of R304 on the state -/

/-- The cursor with which step 3 begins: the stores, `diag[1]` and the working values as the state holds them. -/
def scanCursor (s : State) : Cursor where
  expect := s.scan.expect
  start := s.scan.start
  payload := s.scan.payload
  smp := s.smp
  seg := s.seg
  overflow := diagOverflow s.diag
  rxSegments := s.rxSegments

/-- Step 1: the stores, the tail, `diag` and the payload are cleared. -/
def clearExtract (s : State) : State :=
  { s with smp := [], seg := [], tail := none, diag := 0, scan := { s.scan with payload := [] } }

/-- Step 2: `expect <- tlm_carry ; c <- tlm_carry ; start <- none`. -/
def beginScan (s : State) : State :=
  { s with scan := { s.scan with expect := s.tlmCarry, carryIn := s.tlmCarry, start := none } }

/-- What a cursor leaves in the state; `diag[0]` is not step 3's. -/
def storeCursor (c : Cursor) (s : State) : State :=
  { s with
    smp := c.smp
    seg := c.seg
    diag := diagOf (diagDeferred s.diag) c.overflow
    rxSegments := c.rxSegments
    scan := { s.scan with expect := c.expect, start := c.start, payload := c.payload } }

/-- Step 3: the loop over the buffer. -/
def scanBuffer (rxb : List Byte) (s : State) : State :=
  storeCursor (extractLoop (blockParams s.scan.carryIn) [] (scanCursor s) rxb) s

/-- Step 4: `if start != none: tail <- (start, n-1)`. -/
def storeTail (n : Nat) (s : State) : State :=
  { s with
    tail := match s.scan.start with
      | some first => some ⟨first, n - 1⟩
      | none => s.tail }

/-- Step 5: `if expect = 1: diag[0] <- 1`. -/
def markDeferred (s : State) : State :=
  { s with diag := if s.scan.expect then diagOf true (diagOverflow s.diag) else s.diag }

/-- Step 6: `tlm_carry <- expect`. -/
def keepCarry (s : State) : State := { s with tlmCarry := s.scan.expect }

/-- With step 7 the working values are dropped: nothing of the buffer survives the call but what R42 to R47 keep
(R48). -/
def dropScan (s : State) : State := { s with scan := scanEmpty }

end Sys2Proof.Machine
end

