-- ==== Sys2Proof/Decode.lean ====
section
/-!
DEFINITION. The decoder and the encoder: host command packets (spec/30_encoding.md R120 to R124), wire request
frames as an observer of the wire tells them apart (R109), replies (R105), and the byte-order helpers both use
(spec/20_memory.md R76 to R78: most significant byte first). The decoder is total and rejects by name.
-/

namespace Sys2Proof

/-- Why bytes are no instruction. On the command port each of these is answered with status 1 (R124). -/
inductive DecodeError where
  /-- No bytes at all: a packet starts with its opcode (R120). -/
  | empty
  /-- An opcode that R122 does not list (R124: reserved). -/
  | unknownOpcode (op : Byte)
  /-- A byte count that is not the one R122 gives for the opcode (R124). -/
  | badLength (op : Byte)
  /-- A `table` byte above 5, above 1 for `C2N` (R124). -/
  | badTable (op table : Byte)
  /-- A request frame that is not W, R or Q (R109, R110). -/
  | notAFrame
  /-- A reply that does not hold three header bytes and 1 to 9 data bytes (R105, R111). -/
  | notAReply
deriving DecidableEq, Repr

/-! ### Byte order: most significant byte first (R76, R78) -/

def half (h l : Byte) : Half := h ++ l

def word (b3 b2 b1 b0 : Byte) : Word := b3 ++ b2 ++ b1 ++ b0

def halfHi (v : Half) : Byte := v.extractLsb' 8 8

def halfLo (v : Half) : Byte := v.extractLsb' 0 8

def halfBytes (v : Half) : List Byte := [halfHi v, halfLo v]

def wordBytes (v : Word) : List Byte :=
  [v.extractLsb' 24 8, v.extractLsb' 16 8, v.extractLsb' 8 8, v.extractLsb' 0 8]

/-! ### Operand layouts of host packets (R122) -/

/-- What follows the opcode in a packet, read to an instruction. -/
abbrev Operands := List Byte → Except DecodeError Instr

def operandsNone (op : Byte) (i : Instr) : Operands
  | [] => .ok i
  | _ => .error (.badLength op)

def operandsByte (op : Byte) (f : Byte → Instr) : Operands
  | [b] => .ok (f b)
  | _ => .error (.badLength op)

def operandsHalf (op : Byte) (f : Half → Instr) : Operands
  | [h, l] => .ok (f (half h l))
  | _ => .error (.badLength op)

def operandsWord (op : Byte) (f : Word → Instr) : Operands
  | [b3, b2, b1, b0] => .ok (f (word b3 b2 b1 b0))
  | _ => .error (.badLength op)

def operandsSpan (op : Byte) (f : Byte → Byte → Instr) : Operands
  | [addr, len] => .ok (f addr len)
  | _ => .error (.badLength op)

/-- `addr, len, data[len]` of `REG_WRITE`: the packet has `3 + len` bytes (R124). -/
def operandsRegWrite (op : Byte) : Operands
  | addr :: len :: data =>
    if data.length = len.toNat then .ok (.regWrite addr data) else .error (.badLength op)
  | _ => .error (.badLength op)

/-- `n[15:0], rxb[n]` of `TLM_EXTRACT`: the packet has `3 + n` bytes (R124). -/
def operandsTlmExtract (op : Byte) : Operands
  | nh :: nl :: rxb =>
    if rxb.length = (half nh nl).toNat then .ok (.tlmExtract rxb) else .error (.badLength op)
  | _ => .error (.badLength op)

/-- `image[9]` of `SET_RECORD`. -/
def operandsImage (op : Byte) : Operands
  | [b0, b1, b2, b3, b4, b5, b6, b7, b8] => .ok (.setRecord ⟨b0, b1, b2, b3, b4, b5, b6, b7, b8⟩)
  | _ => .error (.badLength op)

/-- The label-to-code operation of a table id (R122, R146 to R151). -/
def l2cOf (table : Byte) (label : Word) : Option Instr :=
  match table.toNat with
  | 0 => some (.l2cBaud label)
  | 1 => some (.l2cParity label)
  | 2 => some (.l2cAir label)
  | 3 => some (.l2cPacket label)
  | 4 => some (.l2cPower label)
  | 5 => some (.l2cWor label)
  | _ => none

/-- The code-to-label operation of a table id (R122, R152 to R157). -/
def c2lOf (table : Byte) (code : Byte) : Option Instr :=
  match table.toNat with
  | 0 => some (.c2lBaud code)
  | 1 => some (.c2lParity code)
  | 2 => some (.c2lAir code)
  | 3 => some (.c2lPacket code)
  | 4 => some (.c2lPower code)
  | 5 => some (.c2lWor code)
  | _ => none

/-- The code-to-native operation of a table id (R122, R158, R159). -/
def c2nOf (table : Byte) (code : Byte) : Option Instr :=
  match table.toNat with
  | 0 => some (.c2nBaud code)
  | 1 => some (.c2nParity code)
  | _ => none

def tableResult (op table : Byte) : Option Instr → Except DecodeError Instr
  | some i => .ok i
  | none => .error (.badTable op table)

def operandsL2c (op : Byte) : Operands
  | [table, b3, b2, b1, b0] => tableResult op table (l2cOf table (word b3 b2 b1 b0))
  | _ => .error (.badLength op)

def operandsC2l (op : Byte) : Operands
  | [table, code] => tableResult op table (c2lOf table code)
  | _ => .error (.badLength op)

def operandsC2n (op : Byte) : Operands
  | [table, code] => tableResult op table (c2nOf table code)
  | _ => .error (.badLength op)

/-! ### The opcode map of R122 -/

/-- Opcodes 0x00 to 0x42 of R122. -/
def commandRows : List (Byte × Operands) := [
  (0x00, operandsNone 0x00 .modeNormal),
  (0x01, operandsNone 0x01 .modeWor),
  (0x02, operandsNone 0x02 .modeConfig),
  (0x03, operandsNone 0x03 .modeSleep),
  (0x08, operandsWord 0x08 .setPoll),
  (0x10, operandsRegWrite 0x10),
  (0x11, operandsSpan 0x11 .regRead),
  (0x12, operandsSpan 0x12 .rssiRead),
  (0x13, operandsNone 0x13 .eepromWrite),
  (0x14, operandsNone 0x14 .eepromRead),
  (0x15, operandsNone 0x15 .noiseInit),
  (0x20, operandsTlmExtract 0x20),
  (0x21, operandsNone 0x21 .tlmReset),
  (0x22, operandsNone 0x22 .txSegInc),
  (0x23, operandsNone 0x23 .tlmGet),
  (0x30, operandsNone 0x30 .getRecord),
  (0x31, operandsImage 0x31),
  (0x40, operandsL2c 0x40),
  (0x41, operandsC2l 0x41),
  (0x42, operandsC2n 0x42)]

/-- Opcodes 0x60 + f: `SET_<field f>` (R122). -/
def setterRows : List (Byte × Operands) := [
  (0x60, operandsHalf 0x60 .setAddr),
  (0x61, operandsByte 0x61 .setNetid),
  (0x62, operandsByte 0x62 .setBaud),
  (0x63, operandsByte 0x63 .setAir),
  (0x64, operandsByte 0x64 .setParity),
  (0x65, operandsByte 0x65 .setPacket),
  (0x66, operandsByte 0x66 .setPower),
  (0x67, operandsByte 0x67 .setChannel),
  (0x68, operandsHalf 0x68 .setKey),
  (0x69, operandsByte 0x69 .setNoiseEn),
  (0x6A, operandsByte 0x6A .setRssiEn),
  (0x6B, operandsByte 0x6B .setFixed),
  (0x6C, operandsByte 0x6C .setRepeater),
  (0x6D, operandsByte 0x6D .setLbt),
  (0x6E, operandsByte 0x6E .setWor),
  (0x6F, operandsByte 0x6F .setWorCycle)]

/-- Opcodes 0x70 + f: `SET_<field f>!` (R122). -/
def commitRows : List (Byte × Operands) := [
  (0x70, operandsHalf 0x70 .commitAddr),
  (0x71, operandsByte 0x71 .commitNetid),
  (0x72, operandsByte 0x72 .commitBaud),
  (0x73, operandsByte 0x73 .commitAir),
  (0x74, operandsByte 0x74 .commitParity),
  (0x75, operandsByte 0x75 .commitPacket),
  (0x76, operandsByte 0x76 .commitPower),
  (0x77, operandsByte 0x77 .commitChannel),
  (0x78, operandsHalf 0x78 .commitKey),
  (0x79, operandsByte 0x79 .commitNoiseEn),
  (0x7A, operandsByte 0x7A .commitRssiEn),
  (0x7B, operandsByte 0x7B .commitFixed),
  (0x7C, operandsByte 0x7C .commitRepeater),
  (0x7D, operandsByte 0x7D .commitLbt),
  (0x7E, operandsByte 0x7E .commitWor),
  (0x7F, operandsByte 0x7F .commitWorCycle)]

/-- The whole opcode map of R122; every opcode not listed is reserved (R124). -/
def opcodeMap : List (Byte × Operands) := commandRows ++ (setterRows ++ commitRows)

/-- The first row of an opcode map that holds the opcode. -/
def findRow (op : Byte) : List (Byte × Operands) → Option Operands
  | [] => none
  | (o, f) :: rows => if o = op then some f else findRow op rows

/-- A host command packet, `[opcode, operand bytes ...]` (R120, R122, R124). -/
def decodeCommand : List Byte → Except DecodeError Instr
  | [] => .error .empty
  | op :: operands =>
    match findRow op opcodeMap with
    | some f => f operands
    | none => .error (.unknownOpcode op)

/-! ### Wire frames (R102 to R105, R109) -/

/-- Format W after its command byte: `addr, len, data[len]` (R102). -/
def decodeW : List Byte → Except DecodeError Instr
  | addr :: len :: data =>
    if data.length = len.toNat then .ok (.wireW addr data) else .error .notAFrame
  | _ => .error .notAFrame

/-- Format R after its command byte (R103). -/
def decodeR : List Byte → Except DecodeError Instr
  | [addr, len] => .ok (.wireR addr len)
  | _ => .error .notAFrame

/-- Format Q after its four prefix bytes (R104). -/
def decodeQ : List Byte → Except DecodeError Instr
  | [addr, len] => .ok (.wireQ addr len)
  | _ => .error .notAFrame

/-- The four prefix bytes of format Q (R104). -/
def qPrefix : List Byte := [0xC0, 0xC1, 0xC2, 0xC3]

/-- A request frame as R109 says an observer reads it: byte 0 = 0xC1 is R, bytes 0 to 3 = C0 C1 C2 C3 is Q, any
other frame with byte 0 = 0xC0 is W. -/
def decodeRequest (frame : List Byte) : Except DecodeError Instr :=
  if frame.take 4 = qPrefix then decodeQ (frame.drop 4)
  else match frame with
    | [] => .error .empty
    | b :: rest =>
      if b = 0xC1 then decodeR rest
      else if b = 0xC0 then decodeW rest
      else .error .notAFrame

/-- A reply: three header bytes, then 1 to 9 data bytes (R105, R111); no byte of it selects anything. -/
def decodeReply : List Byte → Except DecodeError Instr
  | h0 :: h1 :: h2 :: data =>
    if 1 ≤ data.length ∧ data.length ≤ 9 then .ok (.wireReply h0 h1 h2 data) else .error .notAReply
  | _ => .error .notAReply

/-- The decoder: the bytes of one packet or frame, read on the port they travel on. -/
def decode : Space → List Byte → Except DecodeError Instr
  | .host, l => decodeCommand l
  | .request, l => decodeRequest l
  | .reply, l => decodeReply l

/-! ### The encoder, from the same tables -/

def encodeL2c (table : Byte) (label : Word) : List Byte := 0x40 :: table :: wordBytes label

/-- The bytes of an instruction: a host packet (R122), a request frame (R102 to R104) or a reply (R105). -/
def encode : Instr → List Byte
  | .wireW addr data => 0xC0 :: addr :: BitVec.ofNat 8 data.length :: data
  | .wireR addr len => [0xC1, addr, len]
  | .wireQ addr len => qPrefix ++ [addr, len]
  | .wireReply h0 h1 h2 data => h0 :: h1 :: h2 :: data
  | .setPoll us => 0x08 :: wordBytes us
  | .regWrite addr data => 0x10 :: addr :: BitVec.ofNat 8 data.length :: data
  | .regRead addr len => [0x11, addr, len]
  | .rssiRead addr len => [0x12, addr, len]
  | .tlmExtract rxb => 0x20 :: (halfBytes (BitVec.ofNat 16 rxb.length) ++ rxb)
  | .setRecord m =>
    [0x31, m.addh, m.addl, m.netid, m.reg0, m.reg1, m.reg2, m.reg3, m.keyh, m.keyl]
  | .modeNormal => [0x00]
  | .modeWor => [0x01]
  | .modeConfig => [0x02]
  | .modeSleep => [0x03]
  | .eepromWrite => [0x13]
  | .eepromRead => [0x14]
  | .noiseInit => [0x15]
  | .tlmReset => [0x21]
  | .txSegInc => [0x22]
  | .tlmGet => [0x23]
  | .getRecord => [0x30]
  | .l2cBaud label => encodeL2c 0 label
  | .l2cParity label => encodeL2c 1 label
  | .l2cAir label => encodeL2c 2 label
  | .l2cPacket label => encodeL2c 3 label
  | .l2cPower label => encodeL2c 4 label
  | .l2cWor label => encodeL2c 5 label
  | .c2lBaud code => [0x41, 0, code]
  | .c2lParity code => [0x41, 1, code]
  | .c2lAir code => [0x41, 2, code]
  | .c2lPacket code => [0x41, 3, code]
  | .c2lPower code => [0x41, 4, code]
  | .c2lWor code => [0x41, 5, code]
  | .c2nBaud code => [0x42, 0, code]
  | .c2nParity code => [0x42, 1, code]
  | .setAddr v => 0x60 :: halfBytes v
  | .setNetid v => [0x61, v]
  | .setBaud v => [0x62, v]
  | .setAir v => [0x63, v]
  | .setParity v => [0x64, v]
  | .setPacket v => [0x65, v]
  | .setPower v => [0x66, v]
  | .setChannel v => [0x67, v]
  | .setKey v => 0x68 :: halfBytes v
  | .setNoiseEn v => [0x69, v]
  | .setRssiEn v => [0x6A, v]
  | .setFixed v => [0x6B, v]
  | .setRepeater v => [0x6C, v]
  | .setLbt v => [0x6D, v]
  | .setWor v => [0x6E, v]
  | .setWorCycle v => [0x6F, v]
  | .commitAddr v => 0x70 :: halfBytes v
  | .commitNetid v => [0x71, v]
  | .commitBaud v => [0x72, v]
  | .commitAir v => [0x73, v]
  | .commitParity v => [0x74, v]
  | .commitPacket v => [0x75, v]
  | .commitPower v => [0x76, v]
  | .commitChannel v => [0x77, v]
  | .commitKey v => 0x78 :: halfBytes v
  | .commitNoiseEn v => [0x79, v]
  | .commitRssiEn v => [0x7A, v]
  | .commitFixed v => [0x7B, v]
  | .commitRepeater v => [0x7C, v]
  | .commitLbt v => [0x7D, v]
  | .commitWor v => [0x7E, v]
  | .commitWorCycle v => [0x7F, v]

/-! ### Words of spec/opcode_table.json -/

/-- The `n` bytes of a table word. The table writes a row's match as ONE number whose most significant byte is
byte 0 of the packet or frame (0x4001 is the bytes 40 01 of `L2C 1`, 0xC0C1C2C3 is the Q prefix), so byte 0 is
the top byte of the `8 * n` bits (log 7). -/
def tableBytes : Nat → Nat → List Byte
  | 0, _ => []
  | n + 1, w => tableBytes n (w / 256) ++ [BitVec.ofNat 8 w]

/-- How many bytes the packet or frame that starts with these bytes has (R122, R102 to R104), a length operand
that is not there yet counting as 0. -/
def fullLength (bytes : List Byte) : Nat :=
  let at_ (k : Nat) : Nat := (bytes.getD k 0).toNat
  match at_ 0 with
  | 0x08 => 5
  | 0x10 => 3 + at_ 2
  | 0x11 | 0x12 => 3
  | 0x20 => 3 + (256 * at_ 1 + at_ 2)
  | 0x31 => 10
  | 0x40 => 6
  | 0x41 | 0x42 => 3
  | 0xC0 => if bytes.take 4 = qPrefix then 6 else 3 + at_ 2
  | 0xC1 => 3
  | op =>
    if op = 0x60 ∨ op = 0x68 ∨ op = 0x70 ∨ op = 0x78 then 3
    else if 0x60 ≤ op ∧ op ≤ 0x7F then 2
    else 1

/-- The bytes with zeros after them up to the full length. -/
def padded (bytes : List Byte) : List Byte :=
  bytes ++ List.replicate (fullLength bytes - bytes.length) 0

/-- The whole packet or frame of a table word and the port it travels on. A word whose byte 0 is 0xC0 or 0xC1 is
a request frame (no host opcode has these values, R122). A row that fixes no bit at all (`nbits = 0`) is the
reply row (R105): the shortest reply, one data byte. -/
def tableWord (nbits w : Nat) : Space × List Byte :=
  if nbits = 0 then (.reply, [0, 0, 0, 0])
  else
    let bytes := padded (tableBytes ((nbits + 7) / 8) w)
    match bytes with
    | b :: _ => if b = 0xC0 ∨ b = 0xC1 then (.request, bytes) else (.host, bytes)
    | [] => (.host, [])

def okOnly : Except DecodeError Instr → Option Instr
  | .ok i => some i
  | .error _ => none

/-- The instruction the decoder reads from a table word, operand bytes that the table gives no bits being 0. -/
def decodeTableWord (nbits w : Nat) : Option Instr :=
  okOnly (decode (tableWord nbits w).1 (tableWord nbits w).2)

end Sys2Proof
end

