-- ==== Sys2Proof/Machine/Operands.lean ====
section
/-!
DEFINITION. Operand forms: the register image of the record (spec/41_register_image.md R172, R173, R177), the
sixteen field writes with their legal values (spec/30_encoding.md R122), the wire frames the block builds (R102 to
R104), and the bytes of results (R122, R123).
-/

namespace Sys2Proof.Machine

/-! ### The image transforms -/

/-- `ENCODE(r)` (R172): bits 4:2 of byte 4 are 0. -/
def encodeRecord (r : Record) : Image where
  addh := halfHi r.addr
  addl := halfLo r.addr
  netid := r.netid
  reg0 := r.baud ++ r.parity ++ r.air
  reg1 := r.packet ++ BitVec.ofBool r.noiseEn ++ (0 : BitVec 3) ++ r.power
  reg2 := r.channel
  reg3 := BitVec.ofBool r.rssiEn ++ BitVec.ofBool r.fixed ++ BitVec.ofBool r.repeater ++
    BitVec.ofBool r.lbt ++ BitVec.ofBool r.wor ++ r.worCycle
  keyh := halfHi r.key
  keyl := halfLo r.key

/-- `DECODE(img)` (R173, R176): bits 4:2 of byte 4 are ignored. -/
def decodeRecord (m : Image) : Record where
  addr := half m.addh m.addl
  netid := m.netid
  baud := m.reg0.extractLsb' 5 3
  air := m.reg0.extractLsb' 0 3
  parity := m.reg0.extractLsb' 3 2
  packet := m.reg1.extractLsb' 6 2
  power := m.reg1.extractLsb' 0 2
  channel := m.reg2
  key := half m.keyh m.keyl
  noiseEn := m.reg1.getLsbD 5
  rssiEn := m.reg3.getLsbD 7
  fixed := m.reg3.getLsbD 6
  repeater := m.reg3.getLsbD 5
  lbt := m.reg3.getLsbD 4
  wor := m.reg3.getLsbD 3
  worCycle := m.reg3.extractLsb' 0 3

/-- The image as a byte list in address order (R170). -/
def imageBytes (m : Image) : List Byte :=
  [m.addh, m.addl, m.netid, m.reg0, m.reg1, m.reg2, m.reg3, m.keyh, m.keyl]

/-- The identification block as a byte list in address order (R60). -/
def pidBytes (p : Pid) : List Byte := [p.pid0, p.pid1, p.pid2, p.pid3, p.pid4, p.pid5, p.pid6]

/-! ### Field writes -/

/-- A value for one field of the record, as the operand bytes carry it (R122, R180 to R195). -/
inductive FieldWrite where
  | addr (v : Half)
  | netid (v : Byte)
  | baud (v : Byte)
  | air (v : Byte)
  | parity (v : Byte)
  | packet (v : Byte)
  | power (v : Byte)
  | channel (v : Byte)
  | key (v : Half)
  | noiseEn (v : Byte)
  | rssiEn (v : Byte)
  | fixed (v : Byte)
  | repeater (v : Byte)
  | lbt (v : Byte)
  | wor (v : Byte)
  | worCycle (v : Byte)
deriving DecidableEq, Repr

/-- The "legal values" column of R122. -/
def fieldLegal : FieldWrite → Bool
  | .addr _ => true
  | .netid _ => true
  | .baud v => decide (v.toNat < 8)
  | .air v => decide (v.toNat < 8)
  | .parity v => decide (v.toNat < 4)
  | .packet v => decide (v.toNat < 4)
  | .power v => decide (v.toNat < 4)
  | .channel _ => true
  | .key _ => true
  | .noiseEn v => decide (v.toNat < 2)
  | .rssiEn v => decide (v.toNat < 2)
  | .fixed v => decide (v.toNat < 2)
  | .repeater v => decide (v.toNat < 2)
  | .lbt v => decide (v.toNat < 2)
  | .wor v => decide (v.toNat < 2)
  | .worCycle v => decide (v.toNat < 8)

/-- `rec.<field> <- v` (R180 to R195): a code takes the low bits of its byte, a flag bit 0. -/
def fieldApply (w : FieldWrite) (r : Record) : Record :=
  match w with
  | .addr v => { r with addr := v }
  | .netid v => { r with netid := v }
  | .baud v => { r with baud := v.setWidth 3 }
  | .air v => { r with air := v.setWidth 3 }
  | .parity v => { r with parity := v.setWidth 2 }
  | .packet v => { r with packet := v.setWidth 2 }
  | .power v => { r with power := v.setWidth 2 }
  | .channel v => { r with channel := v }
  | .key v => { r with key := v }
  | .noiseEn v => { r with noiseEn := v.getLsbD 0 }
  | .rssiEn v => { r with rssiEn := v.getLsbD 0 }
  | .fixed v => { r with fixed := v.getLsbD 0 }
  | .repeater v => { r with repeater := v.getLsbD 0 }
  | .lbt v => { r with lbt := v.getLsbD 0 }
  | .wor v => { r with wor := v.getLsbD 0 }
  | .worCycle v => { r with worCycle := v.setWidth 3 }

/-! ### Request frames (R102 to R104) -/

def frameW (addr : Byte) (data : List Byte) : List Byte :=
  0xC0 :: addr :: BitVec.ofNat 8 data.length :: data

def frameR (addr len : Byte) : List Byte := [0xC1, addr, len]

def frameQ (addr len : Byte) : List Byte := [0xC0, 0xC1, 0xC2, 0xC3, addr, len]

/-- The data of a reply, `rxf[3 .. 2+len]` (R108). -/
def rxData (rxf : List Byte) (len : Nat) : List Byte := (rxf.drop 3).take len

/-- `rxf[i]`; beyond `rxlen` the buffer holds no value (R39), so a free byte stands there (log 23). -/
def rxByte (s : State) (i : Nat) : Byte := s.rxf.getD i (Config.freeByte (s.frees + i))

/-- `rxf[3 .. 11]` as an image (R276 step 1). -/
def rxImage (s : State) : Image where
  addh := rxByte s 3
  addl := rxByte s 4
  netid := rxByte s 5
  reg0 := rxByte s 6
  reg1 := rxByte s 7
  reg2 := rxByte s 8
  reg3 := rxByte s 9
  keyh := rxByte s 10
  keyl := rxByte s 11

/-- `DECODE_PID(rxf[3 .. 9])` (R177, R276 step 2). -/
def rxPid (s : State) : Pid where
  pid0 := rxByte s 3
  pid1 := rxByte s 4
  pid2 := rxByte s 5
  pid3 := rxByte s 6
  pid4 := rxByte s 7
  pid5 := rxByte s 8
  pid6 := rxByte s 9

/-! ### Result bytes (R122, R123) -/

/-- `n` bytes that carry no value (R66): free bytes, a fresh one each (log 15). -/
def freeBytes (s : State) : Nat → List Byte
  | 0 => []
  | n + 1 => freeBytes s n ++ [Config.freeByte (s.frees + n)]

/-- A count as one byte. -/
def countByte (n : Nat) : Byte := BitVec.ofNat 8 n

/-- A number as two bytes, most significant first. -/
def countHalf (n : Nat) : List Byte := halfBytes (BitVec.ofNat 16 n)

/-- A segment as four bytes: `first[15:0]`, `last[15:0]` (R122, `TLM_GET`). -/
def segmentBytes (g : Segment) : List Byte := countHalf g.first ++ countHalf g.last

end Sys2Proof.Machine
end

