-- ==== Sys2Proof/Machine/Ops.lean ====
section
/-!
DEFINITION. The shared operations: port events (spec/00_scope.md R11, R12), ending an operation and raising a
fault (spec/60_exceptions.md R340, R352), the steps the step lists are made of, and the sequencer that runs one
step of a list (spec/10_state.md R40).
-/

namespace Sys2Proof.Machine

/-! ### Ending an operation -/

/-- The operation ends with this response packet: `phase <- IDLE` (R40, R120, R340). -/
def respond (packet : List Byte) (s : State) : State :=
  { s with phase := .idle, responses := packet :: s.responses }

/-- `done(result)`: status 0 and the result bytes (R123). -/
def finish (result : List Byte) (s : State) : State := respond (statusDone :: result) s

/-- `raise F`: the operation stops, the response is the fault's code alone, everything earlier steps wrote or
sent stays (R340, R341, R352). This is how a fault is taken; the block going on in idle is the return from it. -/
def raiseFault (f : FaultClass) (s : State) : State := respond [faultCode f] s

/-! ### Port events: one answer is taken and the event is traced -/

def logEvent (p : PortEvent) (a : Answer) (s : State) : State :=
  { s with trace := ⟨p, a⟩ :: s.trace }

def busyAnswer : BusyAnswer → Answer
  | .lvl v => .lvl v
  | .err => .err

def ackAnswer : AckAnswer → Answer
  | .ok => .ok
  | .err => .err

def countAnswer : CountAnswer → Answer
  | .cnt k => .cnt k
  | .err => .err

def readAnswer : ReadAnswer → Answer
  | .bytes l => .bytes l
  | .err => .err

/-- The environment's next answer to `G_RD` (R12, log 1). -/
def nextBusy (s : State) : BusyAnswer := s.busyIn.headD (Config.freeBusy s.frees)

/-- The environment's next answer to an event it acknowledges (R12, log 1). -/
def nextAck (s : State) : AckAnswer := s.ackIn.headD (Config.freeAck s.frees)

/-- The environment's next answer to `U_WR` (R12, log 1). -/
def nextCount (s : State) : CountAnswer := s.countIn.headD (Config.freeCount s.frees)

/-- The environment's next answer to `U_RD` (R12, log 1). -/
def nextRead (s : State) : ReadAnswer := s.readIn.headD (Config.freeRead s.frees)

/-- `G_RD()` answered. -/
def afterBusy (s : State) : State :=
  logEvent .gRd (busyAnswer (nextBusy s)) { s with busyIn := s.busyIn.tail, frees := s.frees + 1 }

/-- `G_WR`, `U_CFG`, `U_RULE` or `U_FL` answered. -/
def afterAck (p : PortEvent) (s : State) : State :=
  logEvent p (ackAnswer (nextAck s)) { s with ackIn := s.ackIn.tail, frees := s.frees + 1 }

/-- `U_WR(l)` answered. -/
def afterCount (l : List Byte) (s : State) : State :=
  logEvent (.uWr l) (countAnswer (nextCount s)) { s with countIn := s.countIn.tail, frees := s.frees + 1 }

/-- `U_RD(k)` answered. -/
def afterRead (k : Nat) (s : State) : State :=
  logEvent (.uRd k) (readAnswer (nextRead s)) { s with readIn := s.readIn.tail, frees := s.frees + 1 }

/-- `DLY(t)` (R13). -/
def delay (us : Nat) (s : State) : State := logEvent (.dly us) .none s

/-! ### The steps of the step lists -/

/-- What one step of a list does to the operation. -/
inductive StepResult where
  /-- The step completed; the next one follows. -/
  | go (s : State)
  /-- The poll goes on: the same step again (R224). -/
  | stay (s : State)
  /-- `raise F`. -/
  | raise (f : FaultClass) (s : State)
  /-- `done(result)`. -/
  | done (result : List Byte) (s : State)
deriving DecidableEq, Repr

/-- The result of an operation that has a step list (R122). -/
inductive ResultForm where
  | nothing
  /-- `rxf[3 .. 2+len]`. -/
  | data (len : Nat)
  /-- `[floor_raw]` as `NOISE_INIT` returns it: the byte just read. -/
  | floor
deriving DecidableEq, Repr

/-- The steps from which the step lists of R223, R256, R262, R268, R274, R276, R280, R196 and R304 are made. -/
inductive Micro where
  /-- An argument, operand or address check: raise the class unless it holds. -/
  | require (holds : Bool) (f : FaultClass)
  /-- Step 1 of `TRANSITION(t)`. -/
  | transCheck (t : Mode)
  /-- Step 2 of a transition, one turn of the poll loop. -/
  | poll
  /-- Steps 3 and 4 of a transition. -/
  | drive (l : Line) (v : Bool)
  /-- Step 5 of a transition. -/
  | uartConfigure
  /-- Step 6 of a transition; steps 3 and 8 of `RSSI_READ`. -/
  | uartReadRule (m t : Nat)
  /-- Step 7 of a transition. -/
  | settle
  /-- `txf <- frame`. -/
  | load (frame : List Byte)
  /-- `txf <- [0xC0, 0x00, 9] ++ img`. -/
  | loadImage
  /-- `SEND`. -/
  | send
  /-- `U_FL`. -/
  | flush
  /-- `U_FL` if `FLUSH_ON_READ`. -/
  | flushOnRead
  /-- `RECV(k)`. -/
  | recv (k : Nat)
  /-- `RECV(txlen)`. -/
  | recvEcho
  /-- A numbered step that does nothing. -/
  | nop
  /-- The echo check. -/
  | checkEcho
  /-- `staged = rec with <field> := v`. -/
  | stage (w : FieldWrite)
  /-- `img = ENCODE(s)`, `s` the staged record or `rec`. -/
  | encodeImage (fromStaged : Bool)
  /-- The commit point: `rec <- staged`; a no-op when `s` is `rec`. -/
  | commit (fromStaged : Bool)
  /-- `img = rxf[3 .. 11]`. -/
  | keepImage
  /-- `rec <- DECODE(img)`, `rec.pid <- blk`, `rec.pid_valid <- 1`. -/
  | refresh
  /-- `floor_raw <- v`, `floor_valid <- 1`. -/
  | setFloor
  /-- Step 1 of `TLM_EXTRACT`, unless its operand is illegal (R304, R124). -/
  | clearExtract (legal : Bool)
  /-- Step 2 of `TLM_EXTRACT`. -/
  | beginScan
  /-- Step 3 of `TLM_EXTRACT`. -/
  | scanBuffer (rxb : List Byte)
  /-- Step 4 of `TLM_EXTRACT` for a buffer of `n` bytes. -/
  | storeTail (n : Nat)
  /-- Step 5 of `TLM_EXTRACT`. -/
  | markDeferred
  /-- Step 6 of `TLM_EXTRACT`. -/
  | keepCarry
  /-- Step 7 of `TLM_EXTRACT`: `done(payload, smp, diag, tlm_carry)`. -/
  | doneExtract
  /-- `done(result)`. -/
  | done (r : ResultForm)
deriving DecidableEq, Repr

/-- Step 1 of `TRANSITION(t)` (R223): for Normal and Wor the record's codes, checked against the sentinel before
any port event; for Config and Sleep the control setting, 9600 and no parity. -/
def transCheckStep (t : Mode) (s : State) : StepResult :=
  if t.transparent then
    if codeToNative codec.baud (s.record.baud.setWidth 8) = notFound ∨
        codeToNative codec.parity (s.record.parity.setWidth 8) = notFound then
      .raise .invalidArgument s
    else
      .go { s with
        tb := (codeToNative codec.baud (s.record.baud.setWidth 8)).setWidth 3
        tp := (codeToNative codec.parity (s.record.parity.setWidth 8)).setWidth 2 }
  else
    .go { s with
      tb := (codeOf codec.baud 9600).setWidth 3
      tp := (codeOf codec.parity 0).setWidth 2 }

/-- Step 2 of a transition (R223, R224): one turn of the poll loop. Not ready: the poll delay, then again. -/
def pollStep (s : State) : StepResult :=
  match nextBusy s with
  | .err => .raise .ioFault (afterBusy s)
  | .lvl v =>
    if v = readyLevel then .go (afterBusy s)
    else .stay (delay s.pollInterval.toNat (afterBusy s))

/-- The level of a line and its latch after a successful write (R36). -/
def setLine (l : Line) (v : Bool) (s : State) : State :=
  match l with
  | .a => { s with mA := v, lineA := some v }
  | .b => { s with mB := v, lineB := some v }

/-- After a failed write the latch keeps its value and the line is unknown (R36, R63). -/
def loseLine (l : Line) (s : State) : State :=
  match l with
  | .a => { s with lineA := none }
  | .b => { s with lineB := none }

/-- Steps 3 and 4 of a transition (R223, R230). -/
def driveStep (l : Line) (v : Bool) (s : State) : StepResult :=
  match nextAck s with
  | .ok => .go (setLine l v (afterAck (.gWr l v) s))
  | .err => .raise .ioFault (loseLine l (afterAck (.gWr l v) s))

/-- The UART's baud and parity after a successful `U_CFG` (R62). -/
def setUartCfg (b : BitVec 3) (p : BitVec 2) (s : State) : State :=
  { s with uartCfg := some (b, p), uartCfgKnown := true }

/-- After a failed `U_CFG` the last successful arguments stay (R353: the UART setting is the old one) and are marked
as not known to hold (R62; log 16). -/
def loseUartCfg (s : State) : State := { s with uartCfgKnown := false }

/-- The UART's read rule after a successful `U_RULE` (R62). -/
def setUartRule (m t : Nat) (s : State) : State := { s with uartRule := some (m, t), uartRuleKnown := true }

/-- After a failed `U_RULE` the last successful arguments stay (R353: the old rule) and are marked as not known to
hold (R62; log 16). -/
def loseUartRule (s : State) : State := { s with uartRuleKnown := false }

/-- Step 5 of a transition: `U_CFG(b, p)` (R223, R62, R353). -/
def uartConfigureStep (s : State) : StepResult :=
  match nextAck s with
  | .ok => .go (setUartCfg s.tb s.tp (afterAck (.uCfg s.tb s.tp) s))
  | .err => .raise .ioFault (loseUartCfg (afterAck (.uCfg s.tb s.tp) s))

/-- `U_RULE(m, t)` (R223 step 6, R268 steps 3 and 8, R62, R353). -/
def uartReadRuleStep (m t : Nat) (s : State) : StepResult :=
  match nextAck s with
  | .ok => .go (setUartRule m t (afterAck (.uRule m t) s))
  | .err => .raise .ioFault (loseUartRule (afterAck (.uRule m t) s))

/-- `SEND` (R253): the whole frame in one `U_WR`; any other count is a failed call. -/
def sendStep (s : State) : StepResult :=
  match nextCount s with
  | .err => .raise .ioFault (afterCount s.txf s)
  | .cnt k =>
    if k = s.txf.length then .go (afterCount s.txf s) else .raise .ioFault (afterCount s.txf s)

/-- `U_FL()` (R256 step 6). -/
def flushStep (s : State) : StepResult :=
  match nextAck s with
  | .ok => .go (afterAck .uFl s)
  | .err => .raise .ioFault (afterAck .uFl s)

/-- Step 6 of `REG_READ` and `RSSI_READ` (R262, R268): nothing unless `FLUSH_ON_READ`. -/
def flushOnReadStep (s : State) : StepResult := if flushOnRead then flushStep s else .go s

/-- `RECV(k)` (R254): the bytes go to `rxf`, at most 12 of them; a count other than `k` is a ProtocolFault. -/
def recvStep (k : Nat) (s : State) : StepResult :=
  match nextRead s with
  | .err => .raise .ioFault (afterRead k s)
  | .bytes l =>
    if l.length = k then .go { afterRead k s with rxf := l.take frameMax }
    else .raise .protocolFault { afterRead k s with rxf := l.take frameMax }

/-- Step 9 of `REG_WRITE` (R257): bytes 1 to `txlen - 1` compared, byte 0 not looked at. -/
def checkEchoStep (s : State) : StepResult :=
  if (s.rxf.take s.txf.length).drop 1 = s.txf.drop 1 then .go s else .raise .protocolFault s

/-- The result of `TLM_EXTRACT` in the layout of R122 (R304 step 7). -/
def extractResult (s : State) : List Byte :=
  countHalf s.scan.payload.length ++ s.scan.payload ++ [countByte s.smp.length] ++ s.smp ++
    [diagByte s.diag, flagByte s.tlmCarry]

/-- The result bytes of an operation (R122). -/
def resultBytes (r : ResultForm) (s : State) : List Byte :=
  match r with
  | .nothing => []
  | .data len => rxData s.rxf len
  | .floor => [rxByte s 3]

/-- One step of a step list. A load keeps at most the 12 bytes the frame buffer has (R39, log 23). -/
def runMicro (m : Micro) (s : State) : StepResult :=
  match m with
  | .require holds f => if holds then .go s else .raise f s
  | .transCheck t => transCheckStep t s
  | .poll => pollStep s
  | .drive l v => driveStep l v s
  | .uartConfigure => uartConfigureStep s
  | .uartReadRule m t => uartReadRuleStep m t s
  | .settle => .go (delay tSettle s)
  | .load frame => .go { s with txf := frame.take frameMax }
  | .loadImage => .go { s with txf := frameW 0x00 (imageBytes s.img) }
  | .send => sendStep s
  | .flush => flushStep s
  | .flushOnRead => flushOnReadStep s
  | .recv k => recvStep k s
  | .recvEcho => recvStep s.txf.length s
  | .nop => .go s
  | .checkEcho => checkEchoStep s
  | .stage w => .go { s with staged := fieldApply w s.record }
  | .encodeImage fromStaged =>
    .go { s with img := encodeRecord (if fromStaged then s.staged else s.record) }
  | .commit fromStaged => .go (if fromStaged then { s with record := s.staged } else s)
  | .keepImage => .go { s with img := rxImage s }
  | .refresh => .go { s with record := decodeRecord s.img, pid := some (rxPid s) }
  | .setFloor => .go { s with floor := some (rxByte s 3) }
  | .clearExtract legal => if legal then .go (clearExtract s) else .raise .invalidArgument s
  | .beginScan => .go (beginScan s)
  | .scanBuffer rxb => .go (scanBuffer rxb s)
  | .storeTail n => .go (storeTail n s)
  | .markDeferred => .go (markDeferred s)
  | .keepCarry => .go (keepCarry s)
  | .doneExtract => .done (extractResult s) (dropScan s)
  | .done r => .done (resultBytes r s) s

/-! ### The sequencer -/

/-- A step list: each step with its place (R14, R40). -/
abbrev StepList := List (Loc × Micro)

/-- The place of a step of an operation's own rule. -/
def topLoc (step : Nat) (sub : Option Nat) : Loc := ⟨step, [], sub⟩

/-- The part of a list from the place on; empty if the list has no such place. -/
def fromLoc (loc : Loc) : StepList → StepList
  | [] => []
  | e :: rest => if e.1 = loc then e :: rest else fromLoc loc rest

/-- The part of the list that is still to run: all of it when the operation begins in idle (R84). -/
def remaining (p : StepList) : Phase → StepList
  | .idle => p
  | .run _ loc => fromLoc loc p

/-- The phase that stands before the first of these steps. -/
def phaseAt (op : Instr) : StepList → Phase
  | [] => .idle
  | (loc, _) :: _ => .run op loc

/-- What a step's outcome does to `phase` and to the response port (R40, R224, R340). -/
def settleStep (op : Instr) (loc : Loc) (rest : StepList) : StepResult → State
  | .go t => { t with phase := phaseAt op rest }
  | .stay t => { t with phase := .run op loc }
  | .raise f t => raiseFault f t
  | .done result t => finish result t

/-- One step of an operation that has a step list: the step `phase` stands at, the first one in idle. -/
def runSteps (op : Instr) (p : StepList) (s : State) : Host.Outcome State Fault Refusal :=
  match remaining p s.phase with
  | [] => .fault .badPhase
  | (loc, m) :: rest => .next (settleStep op loc rest (runMicro m s))

/-- A one-step operation without port event that checks an operand first (R124, R179). -/
def checkedStep (legal : Bool) (t : State) (s : State) : Host.Outcome State Fault Refusal :=
  .next (if legal then t else raiseFault .invalidArgument s)

end Sys2Proof.Machine
end

