-- ==== Sys2Proof/Machine/CodecOps.lean ====
section
/-!
DEFINITION. The codec operations `L2C`, `C2L`, `C2N` (spec/40_codec_tables.md R146 to R159): constants looked up,
no state written but the response, no port event, no fault.
-/

namespace Sys2Proof.Machine

/-- The response of `L2C`: `code` (R122). -/
def l2cStep (t : CodecTable) (missDefault label : Word) (s : State) : Host.Outcome State Fault Refusal :=
  .next (finish [labelToCode t missDefault label] s)

/-- The response of `C2L`: `found` and `label`; a label without value on a miss (R122, R152). -/
def c2lStep (t : CodecTable) (code : Byte) (s : State) : Host.Outcome State Fault Refusal :=
  .next (match codeToLabel t code with
    | some label => finish (flagByte true :: wordBytes label) s
    | none => finish (flagByte false :: freeBytes s 4) { s with frees := s.frees + 4 })

/-- The response of `C2N`: `native` (R122). -/
def c2nStep (t : CodecTable) (code : Byte) (s : State) : Host.Outcome State Fault Refusal :=
  .next (finish [codeToNative t code] s)

/-- `L2C 0, label` (R146). -/
def execL2cBaud (label : Word) (s : State) : Host.Outcome State Fault Refusal :=
  l2cStep codec.baud baudDefault label s

/-- `L2C 1, label` (R147). -/
def execL2cParity (label : Word) (s : State) : Host.Outcome State Fault Refusal :=
  l2cStep codec.parity parityDefault label s

/-- `L2C 2, label` (R148). -/
def execL2cAir (label : Word) (s : State) : Host.Outcome State Fault Refusal :=
  l2cStep codec.air airDefault label s

/-- `L2C 3, label` (R149). -/
def execL2cPacket (label : Word) (s : State) : Host.Outcome State Fault Refusal :=
  l2cStep codec.packet packetDefault label s

/-- `L2C 4, label` (R150). -/
def execL2cPower (label : Word) (s : State) : Host.Outcome State Fault Refusal :=
  l2cStep codec.power powerDefault label s

/-- `L2C 5, label` (R151). -/
def execL2cWor (label : Word) (s : State) : Host.Outcome State Fault Refusal :=
  l2cStep codec.wor worDefault label s

/-- `C2L 0, code` (R152). -/
def execC2lBaud (code : Byte) (s : State) : Host.Outcome State Fault Refusal :=
  c2lStep codec.baud code s

/-- `C2L 1, code` (R153). -/
def execC2lParity (code : Byte) (s : State) : Host.Outcome State Fault Refusal :=
  c2lStep codec.parity code s

/-- `C2L 2, code` (R154). -/
def execC2lAir (code : Byte) (s : State) : Host.Outcome State Fault Refusal :=
  c2lStep codec.air code s

/-- `C2L 3, code` (R155). -/
def execC2lPacket (code : Byte) (s : State) : Host.Outcome State Fault Refusal :=
  c2lStep codec.packet code s

/-- `C2L 4, code` (R156). -/
def execC2lPower (code : Byte) (s : State) : Host.Outcome State Fault Refusal :=
  c2lStep codec.power code s

/-- `C2L 5, code` (R157). -/
def execC2lWor (code : Byte) (s : State) : Host.Outcome State Fault Refusal :=
  c2lStep codec.wor code s

/-- `C2N 0, code` (R158). -/
def execC2nBaud (code : Byte) (s : State) : Host.Outcome State Fault Refusal :=
  c2nStep codec.baud code s

/-- `C2N 1, code` (R159). -/
def execC2nParity (code : Byte) (s : State) : Host.Outcome State Fault Refusal :=
  c2nStep codec.parity code s

end Sys2Proof.Machine
end

