-- ==== Sys2Proof/Machine/Modes.lean ====
section
/-!
DEFINITION. The mode controller (spec/42_mode_controller.md): the step list of `TRANSITION`, the four `MODE`
operations, `SET_POLL`.
-/

namespace Sys2Proof.Machine

/-- The read rule of a mode, `(min_bytes, idle_timeout_units)` (R222). -/
def readRule (t : Mode) : Nat × Nat := if t.transparent then (minImm, 0) else (minGap, idleGapUnits)

/-- `TRANSITION(t)`, steps 1 to 7 (R223), where a calling operation stands at `place`. -/
def transitionSteps (place : Option Nat → Loc) (t : Mode) : StepList := [
  (place (some 1), .transCheck t),
  (place (some 2), .poll),
  (place (some 3), .drive .a (pins t).1),
  (place (some 4), .drive .b (pins t).2),
  (place (some 5), .uartConfigure),
  (place (some 6), .uartReadRule (readRule t).1 (readRule t).2),
  (place (some 7), .settle)]

/-- `TRANSITION(t); done` (R225, R226, R228, R229). -/
def modeSteps (t : Mode) : StepList :=
  transitionSteps (topLoc 1) t ++ [(topLoc 2 none, .done .nothing)]

/-- `MODE NORMAL` (R225). -/
def execModeNormal (s : State) : Host.Outcome State Fault Refusal :=
  runSteps .modeNormal (modeSteps .normal) s

/-- `MODE WOR` (R226). -/
def execModeWor (s : State) : Host.Outcome State Fault Refusal :=
  runSteps .modeWor (modeSteps .wor) s

/-- `MODE CONFIG` (R228). -/
def execModeConfig (s : State) : Host.Outcome State Fault Refusal :=
  runSteps .modeConfig (modeSteps .config) s

/-- `MODE SLEEP` (R229). -/
def execModeSleep (s : State) : Host.Outcome State Fault Refusal :=
  runSteps .modeSleep (modeSteps .sleep) s

/-- `SET_POLL us` (R232): one step, no port event; every value is legal. -/
def execSetPoll (us : Word) (s : State) : Host.Outcome State Fault Refusal :=
  .next (finish [] { s with pollInterval := us })

end Sys2Proof.Machine
end

