-- ==== Sys2Proof/Machine/Spans.lean ====
section
/-!
DEFINITION. The validity predicates of the two address spaces (spec/20_memory.md R73, R74).
-/

namespace Sys2Proof.Machine

/-- `span_ok(addr, len)` of R73. `last = addr + len - 1` is formed on naturals, so it cannot wrap. -/
def spanOk (addr : Byte) (len : Nat) : Bool :=
  let last := addr.toNat + len - 1
  decide (1 ≤ len) &&
    ((decide (addr.toNat ≤ 0x08) && decide (last ≤ 0x08)) ||
      (decide (0x80 ≤ addr.toNat) && decide (last ≤ 0x86)))

/-- `rssi_span_ok(addr, len)` of R74: the RSSI channel has the two addresses 0 and 1. -/
def rssiSpanOk (addr : Byte) (len : Nat) : Bool :=
  decide (1 ≤ len) && decide (addr.toNat ≤ 1) && decide (addr.toNat + len ≤ 2)

end Sys2Proof.Machine
end

