-- ==== Sys2Proof/Machine/Transport.lean ====
section
/-!
DEFINITION. The register transport protocol (spec/43_register_transport.md): the wire exchanges (the four wire
rows of the opcode table), `REG_WRITE`, `REG_READ`, `RSSI_READ`, `EEPROM_WRITE`, `EEPROM_READ`, `NOISE_INIT`.
-/

namespace Sys2Proof.Machine

/-! ### Exchanges: `MemWrite` and `MemRead` of 00_scope.md R10 -/

/-- Steps 4 to 9 of `REG_WRITE` (R256); `loadTx` is what step 4 puts into `txf`. Step 8 is a line of RECV and
does nothing of its own. -/
def writeExchange (place : Nat → Option Nat → Loc) (loadTx : Micro) : StepList := [
  (place 4 none, loadTx),
  (place 5 none, .send),
  (place 6 none, .flush),
  (place 7 none, .recvEcho),
  (place 8 none, .nop),
  (place 9 none, .checkEcho)]

/-- Steps 4 to 7 of `REG_READ` and of `RSSI_READ` (R262, R268). -/
def readExchange (place : Nat → Option Nat → Loc) (frame : List Byte) (len : Nat) : StepList := [
  (place 4 none, .load frame),
  (place 5 none, .send),
  (place 6 none, .flushOnRead),
  (place 7 none, .recv (3 + len))]

/-- Wire format W on its own: `MemWrite` (R10, R102), then its report. DESIGN CHOICE: the span is not checked here, so
a frame for a span that is not `span_ok` is sent too, which R102 says the block never builds (log 5). -/
def wireWSteps (addr : Byte) (data : List Byte) : StepList :=
  writeExchange topLoc (.load (frameW addr data)) ++ [(topLoc 10 none, .done .nothing)]

/-- Wire format R on its own: `MemRead` (R10, R103), then its report. DESIGN CHOICE: the span is not checked here, as in
`wireWSteps` (log 5). -/
def wireRSteps (addr len : Byte) : StepList :=
  readExchange topLoc (frameR addr len) len.toNat ++ [(topLoc 8 none, .done (.data len.toNat))]

/-- Wire format Q on its own: steps 4 to 7 of `RSSI_READ` (R104, R268), then its report. DESIGN CHOICE: the span is not
checked here, so a frame for a span that is not `rssi_span_ok` is sent too, which R104 says the block never builds
(log 5). -/
def wireQSteps (addr len : Byte) : StepList :=
  readExchange topLoc (frameQ addr len) len.toNat ++ [(topLoc 8 none, .done (.data len.toNat))]

/-- W, register write request (R102, R256 steps 4 to 9). -/
def execWireW (addr : Byte) (data : List Byte) (s : State) : Host.Outcome State Fault Refusal :=
  runSteps (.wireW addr data) (wireWSteps addr data) s

/-- R, register read request (R103, R262 steps 4 to 7). -/
def execWireR (addr len : Byte) (s : State) : Host.Outcome State Fault Refusal :=
  runSteps (.wireR addr len) (wireRSteps addr len) s

/-- Q, ambient-noise/RSSI read request (R104, R268 steps 4 to 7). -/
def execWireQ (addr len : Byte) (s : State) : Host.Outcome State Fault Refusal :=
  runSteps (.wireQ addr len) (wireQSteps addr len) s

/-- The reply (R105): it arrives as the answer to `U_RD(3 + len)`, is stored in `rxf`, and its last `len` bytes
are the data (R108, R254; log 5). -/
def execWireReply (h0 h1 h2 : Byte) (data : List Byte) (s : State) :
    Host.Outcome State Fault Refusal :=
  let frame := h0 :: h1 :: h2 :: data
  .next (finish data
    { logEvent (.uRd frame.length) (.bytes frame) s with rxf := frame.take frameMax })

/-! ### The bodies that more than one operation runs -/

/-- Steps 3 to 9 of `REG_WRITE` (R256). -/
def writeBody (place : Nat → Option Nat → Loc) (loadTx : Micro) : StepList :=
  transitionSteps (place 3) .config ++ writeExchange place loadTx

/-- Steps 3 to 8 of `REG_READ` (R262). -/
def readBody (place : Nat → Option Nat → Loc) (addr len : Byte) : StepList :=
  transitionSteps (place 3) .config ++
    (readExchange place (frameR addr len) len.toNat ++ transitionSteps (place 8) .normal)

/-- Steps 3 to 8 of `RSSI_READ` (R268): no transition; the gap rule before, the immediate rule after. -/
def rssiBody (place : Nat → Option Nat → Loc) (addr len : Byte) : StepList :=
  (place 3 none, .uartReadRule minGap idleGapUnits) ::
    (readExchange place (frameQ addr len) len.toNat ++ [(place 8 none, .uartReadRule minImm 0)])

/-! ### The step lists of the operations -/

/-- `REG_WRITE addr, data` (R251, R252, R256). -/
def regWriteSteps (addr : Byte) (data : List Byte) : StepList :=
  (topLoc 1 none, .require (decide (1 ≤ data.length)) .invalidArgument) ::
  (topLoc 2 none, .require (spanOk addr data.length) .addressRange) ::
    (writeBody topLoc (.load (frameW addr data)) ++
      (transitionSteps (topLoc 10) .normal ++ [(topLoc 11 none, .done .nothing)]))

/-- `REG_READ addr, len` (R251, R252, R262). -/
def regReadSteps (addr len : Byte) : StepList :=
  (topLoc 1 none, .require (decide (1 ≤ len.toNat)) .invalidArgument) ::
  (topLoc 2 none, .require (spanOk addr len.toNat) .addressRange) ::
    (readBody topLoc addr len ++ [(topLoc 9 none, .done (.data len.toNat))])

/-- `RSSI_READ addr, len` (R251, R252, R268). -/
def rssiReadSteps (addr len : Byte) : StepList :=
  (topLoc 1 none, .require (decide (1 ≤ len.toNat)) .invalidArgument) ::
  (topLoc 2 none, .require (rssiSpanOk addr len.toNat) .addressRange) ::
    (rssiBody topLoc addr len ++ [(topLoc 9 none, .done (.data len.toNat))])

/-- `EEPROM_WRITE` (R274): `place n calls sub` is where its step `n` stands; with `fromStaged` it writes the
staged record, otherwise `rec` itself. -/
def eepromWriteSteps (place : Nat → List Nat → Option Nat → Loc) (fromStaged : Bool) : StepList :=
  (place 1 [] none, .encodeImage fromStaged) ::
    (writeBody (fun n => place 2 [n]) .loadImage ++
      ((place 3 [] none, .commit fromStaged) ::
        (transitionSteps (place 4 []) .normal ++ [(place 5 [] none, .done .nothing)])))

/-- `EEPROM_READ` (R276): two complete reads, then the record and the identification block at once. -/
def eepromReadSteps : StepList :=
  readBody (fun n sub => ⟨1, [n], sub⟩) 0x00 9 ++
    ((topLoc 1 none, .keepImage) ::
      (readBody (fun n sub => ⟨2, [n], sub⟩) 0x80 7 ++
        [(topLoc 3 none, .refresh), (topLoc 4 none, .done .nothing)]))

/-- `NOISE_INIT` (R280). -/
def noiseInitSteps : StepList :=
  rssiBody (fun n sub => ⟨1, [n], sub⟩) noiseAddr 1 ++
    [(topLoc 2 none, .setFloor), (topLoc 3 none, .done .floor)]

/-- `SET_<field>! v` (R196): operand check, staging, then `EEPROM_WRITE` with the staged record. -/
def setCommitSteps (w : FieldWrite) : StepList :=
  (topLoc 1 none, .require (fieldLegal w) .invalidArgument) ::
  (topLoc 2 none, .stage w) ::
    eepromWriteSteps (fun n calls sub => ⟨3, n :: calls, sub⟩) true

/-! ### The meanings -/

/-- `REG_WRITE addr, data` (R256). -/
def execRegWrite (addr : Byte) (data : List Byte) (s : State) : Host.Outcome State Fault Refusal :=
  runSteps (.regWrite addr data) (regWriteSteps addr data) s

/-- `REG_READ addr, len` (R262). -/
def execRegRead (addr len : Byte) (s : State) : Host.Outcome State Fault Refusal :=
  runSteps (.regRead addr len) (regReadSteps addr len) s

/-- `RSSI_READ addr, len` (R268). -/
def execRssiRead (addr len : Byte) (s : State) : Host.Outcome State Fault Refusal :=
  runSteps (.rssiRead addr len) (rssiReadSteps addr len) s

/-- `EEPROM_WRITE` (R274), the commit. -/
def execEepromWrite (s : State) : Host.Outcome State Fault Refusal :=
  runSteps .eepromWrite (eepromWriteSteps (fun n calls sub => ⟨n, calls, sub⟩) false) s

/-- `EEPROM_READ` (R276), the refresh. -/
def execEepromRead (s : State) : Host.Outcome State Fault Refusal :=
  runSteps .eepromRead eepromReadSteps s

/-- `NOISE_INIT` (R280). -/
def execNoiseInit (s : State) : Host.Outcome State Fault Refusal :=
  runSteps .noiseInit noiseInitSteps s

end Sys2Proof.Machine
end

