-- ==== Sys2Proof/Machine/Commits.lean ====
section
/-!
DEFINITION. The sixteen set-and-commit operations `SET_<field>!` (spec/41_register_image.md R196, R203 to R218).
-/

namespace Sys2Proof.Machine

/-- `SET_ADDR! v` (R203). -/
def execCommitAddr (v : Half) (s : State) : Host.Outcome State Fault Refusal :=
  runSteps (.commitAddr v) (setCommitSteps (.addr v)) s

/-- `SET_NETID! v` (R204). -/
def execCommitNetid (v : Byte) (s : State) : Host.Outcome State Fault Refusal :=
  runSteps (.commitNetid v) (setCommitSteps (.netid v)) s

/-- `SET_BAUD! v` (R205). -/
def execCommitBaud (v : Byte) (s : State) : Host.Outcome State Fault Refusal :=
  runSteps (.commitBaud v) (setCommitSteps (.baud v)) s

/-- `SET_AIR! v` (R206). -/
def execCommitAir (v : Byte) (s : State) : Host.Outcome State Fault Refusal :=
  runSteps (.commitAir v) (setCommitSteps (.air v)) s

/-- `SET_PARITY! v` (R207). -/
def execCommitParity (v : Byte) (s : State) : Host.Outcome State Fault Refusal :=
  runSteps (.commitParity v) (setCommitSteps (.parity v)) s

/-- `SET_PACKET! v` (R208). -/
def execCommitPacket (v : Byte) (s : State) : Host.Outcome State Fault Refusal :=
  runSteps (.commitPacket v) (setCommitSteps (.packet v)) s

/-- `SET_POWER! v` (R209). -/
def execCommitPower (v : Byte) (s : State) : Host.Outcome State Fault Refusal :=
  runSteps (.commitPower v) (setCommitSteps (.power v)) s

/-- `SET_CHANNEL! v` (R210). -/
def execCommitChannel (v : Byte) (s : State) : Host.Outcome State Fault Refusal :=
  runSteps (.commitChannel v) (setCommitSteps (.channel v)) s

/-- `SET_KEY! v` (R211). -/
def execCommitKey (v : Half) (s : State) : Host.Outcome State Fault Refusal :=
  runSteps (.commitKey v) (setCommitSteps (.key v)) s

/-- `SET_NOISE_EN! v` (R212). -/
def execCommitNoiseEn (v : Byte) (s : State) : Host.Outcome State Fault Refusal :=
  runSteps (.commitNoiseEn v) (setCommitSteps (.noiseEn v)) s

/-- `SET_RSSI_EN! v` (R213). -/
def execCommitRssiEn (v : Byte) (s : State) : Host.Outcome State Fault Refusal :=
  runSteps (.commitRssiEn v) (setCommitSteps (.rssiEn v)) s

/-- `SET_FIXED! v` (R214). -/
def execCommitFixed (v : Byte) (s : State) : Host.Outcome State Fault Refusal :=
  runSteps (.commitFixed v) (setCommitSteps (.fixed v)) s

/-- `SET_REPEATER! v` (R215). -/
def execCommitRepeater (v : Byte) (s : State) : Host.Outcome State Fault Refusal :=
  runSteps (.commitRepeater v) (setCommitSteps (.repeater v)) s

/-- `SET_LBT! v` (R216). -/
def execCommitLbt (v : Byte) (s : State) : Host.Outcome State Fault Refusal :=
  runSteps (.commitLbt v) (setCommitSteps (.lbt v)) s

/-- `SET_WOR! v` (R217). -/
def execCommitWor (v : Byte) (s : State) : Host.Outcome State Fault Refusal :=
  runSteps (.commitWor v) (setCommitSteps (.wor v)) s

/-- `SET_WOR_CYCLE! v` (R218). -/
def execCommitWorCycle (v : Byte) (s : State) : Host.Outcome State Fault Refusal :=
  runSteps (.commitWorCycle v) (setCommitSteps (.worCycle v)) s

end Sys2Proof.Machine
end

