-- ==== Sys2Proof/Machine/Setters.lean ====
section
/-!
DEFINITION. Record access (spec/41_register_image.md): `GET_RECORD`, `SET_RECORD` and the sixteen setters.
-/

namespace Sys2Proof.Machine

/-- The identification bytes of a response: without value while `pid_valid = 0` (R66, R200). -/
def pidResult (s : State) : List Byte :=
  match s.pid with
  | some p => pidBytes p
  | none => freeBytes s 7

/-- `GET_RECORD` (R200): the image, `pid_valid`, seven bytes. -/
def execGetRecord (s : State) : Host.Outcome State Fault Refusal :=
  .next (finish (imageBytes (encodeRecord s.record) ++ flagByte (pidValid s) :: pidResult s)
    { s with frees := s.frees + 7 })

/-- `SET_RECORD img` (R201): the sixteen fields; `pid` and `pid_valid` unchanged. -/
def execSetRecord (m : Image) (s : State) : Host.Outcome State Fault Refusal :=
  .next (finish [] { s with record := decodeRecord m })

/-- The common part of a setter without commit (R179): operand check, then one field of the record. -/
def setField (w : FieldWrite) (s : State) : Host.Outcome State Fault Refusal :=
  checkedStep (fieldLegal w) (finish [] { s with record := fieldApply w s.record }) s

/-- `SET_ADDR v` (R180). -/
def execSetAddr (v : Half) (s : State) : Host.Outcome State Fault Refusal := setField (.addr v) s

/-- `SET_NETID v` (R181). -/
def execSetNetid (v : Byte) (s : State) : Host.Outcome State Fault Refusal := setField (.netid v) s

/-- `SET_BAUD v` (R182). -/
def execSetBaud (v : Byte) (s : State) : Host.Outcome State Fault Refusal := setField (.baud v) s

/-- `SET_AIR v` (R183). -/
def execSetAir (v : Byte) (s : State) : Host.Outcome State Fault Refusal := setField (.air v) s

/-- `SET_PARITY v` (R184). -/
def execSetParity (v : Byte) (s : State) : Host.Outcome State Fault Refusal := setField (.parity v) s

/-- `SET_PACKET v` (R185). -/
def execSetPacket (v : Byte) (s : State) : Host.Outcome State Fault Refusal := setField (.packet v) s

/-- `SET_POWER v` (R186). -/
def execSetPower (v : Byte) (s : State) : Host.Outcome State Fault Refusal := setField (.power v) s

/-- `SET_CHANNEL v` (R187). -/
def execSetChannel (v : Byte) (s : State) : Host.Outcome State Fault Refusal := setField (.channel v) s

/-- `SET_KEY v` (R188). -/
def execSetKey (v : Half) (s : State) : Host.Outcome State Fault Refusal := setField (.key v) s

/-- `SET_NOISE_EN v` (R189). -/
def execSetNoiseEn (v : Byte) (s : State) : Host.Outcome State Fault Refusal := setField (.noiseEn v) s

/-- `SET_RSSI_EN v` (R190). -/
def execSetRssiEn (v : Byte) (s : State) : Host.Outcome State Fault Refusal := setField (.rssiEn v) s

/-- `SET_FIXED v` (R191). -/
def execSetFixed (v : Byte) (s : State) : Host.Outcome State Fault Refusal := setField (.fixed v) s

/-- `SET_REPEATER v` (R192). -/
def execSetRepeater (v : Byte) (s : State) : Host.Outcome State Fault Refusal := setField (.repeater v) s

/-- `SET_LBT v` (R193). -/
def execSetLbt (v : Byte) (s : State) : Host.Outcome State Fault Refusal := setField (.lbt v) s

/-- `SET_WOR v` (R194). -/
def execSetWor (v : Byte) (s : State) : Host.Outcome State Fault Refusal := setField (.wor v) s

/-- `SET_WOR_CYCLE v` (R195). -/
def execSetWorCycle (v : Byte) (s : State) : Host.Outcome State Fault Refusal := setField (.worCycle v) s

end Sys2Proof.Machine
end

