-- ==== Sys2Proof/Machine/Telemetry.lean ====
section
/-!
DEFINITION. Telemetry operations (spec/44_telemetry.md): `TLM_EXTRACT`, `TLM_RESET`, `TX_SEG_INC`, `TLM_GET`, and the
value functions DBM and SNR.
-/

namespace Sys2Proof.Machine

/-! ### The operations -/

/-- The seven steps of R304. The check of the operand (R124, R342: `n = 0` and `n > RXBUF_MAX` are InvalidArgument
with no state change) is made when step 1 is about to run. -/
def tlmExtractSteps (rxb : List Byte) : StepList := [
  (topLoc 1 none, .clearExtract (decide (1 ≤ rxb.length) && decide (rxb.length ≤ rxbufMax))),
  (topLoc 2 none, .beginScan),
  (topLoc 3 none, .scanBuffer rxb),
  (topLoc 4 none, .storeTail rxb.length),
  (topLoc 5 none, .markDeferred),
  (topLoc 6 none, .keepCarry),
  (topLoc 7 none, .doneExtract)]

/-- `TLM_EXTRACT rxb` (R304): pure computation, no port event. -/
def execTlmExtract (rxb : List Byte) (s : State) : Host.Outcome State Fault Refusal :=
  runSteps (.tlmExtract rxb) (tlmExtractSteps rxb) s

/-- `TLM_RESET` (R321): the floor is kept. -/
def execTlmReset (s : State) : Host.Outcome State Fault Refusal :=
  .next (finish []
    { s with
      tlmCarry := false
      rxSegments := 0
      txSegments := 0
      smp := []
      seg := []
      tail := none
      diag := 0 })

/-- `TX_SEG_INC` (R320): modulo 2^32. -/
def execTxSegInc (s : State) : Host.Outcome State Fault Refusal :=
  .next (finish [] { s with txSegments := s.txSegments + 1 })

/-- `floor_raw` in a response: a byte without value while `floor_valid = 0` (R66, R322). -/
def floorByte (s : State) : Byte := s.floor.getD (Config.freeByte s.frees)

/-- `tail` in a response: four bytes, without value while `tail_valid = 0` (R66, R322). -/
def tailBytes (s : State) : List Byte :=
  match s.tail with
  | some g => segmentBytes g
  | none => freeBytes { s with frees := s.frees + 1 } 4

/-- The result of `TLM_GET` in the layout of R122. -/
def tlmGetResult (s : State) : List Byte :=
  wordBytes s.rxSegments ++ wordBytes s.txSegments ++ [flagByte (floorValid s), floorByte s] ++
    [countByte s.smp.length] ++ s.smp ++
    [countByte s.seg.length] ++ (s.seg.map segmentBytes).flatten ++
    [flagByte s.tail.isSome] ++ tailBytes s ++
    [diagByte s.diag, flagByte s.tlmCarry]

/-- `TLM_GET` (R322): reads only; the five bytes that may carry no value are taken from the free values. -/
def execTlmGet (s : State) : Host.Outcome State Fault Refusal :=
  .next (finish (tlmGetResult s) { s with frees := s.frees + 5 })

/-! ### Values (R313 to R316): exact rationals -/

/-- `DBM(raw) = -(raw / 2)` (R313). -/
def dbm (raw : Byte) : Rat := -((raw.toNat : Rat) / 2)

/-- `SNR(p, f) = p / f`; no value for a zero floor (R315). -/
def snr (p f : Rat) : Option Rat := if f = 0 then none else some (p / f)

/-- `snr[k]` of the last call: no value without the sample, while `floor_valid = 0`, or for a zero floor (R315). -/
def sampleSnr (s : State) (k : Nat) : Option Rat :=
  match s.smp[k]?, s.floor with
  | some raw, some f => snr (dbm raw) (dbm f)
  | _, _ => none

end Sys2Proof.Machine
end

