-- ==== Sys2Proof/Machine/Dispatch.lean ====
section
/-!
DEFINITION. The dispatch of an instruction to its meaning: one arm per constructor of Instr.
-/

namespace Sys2Proof.Machine

def exec (i : Instr) (s : State) : Host.Outcome State Fault Refusal :=
  match i with
  | .wireW addr data => Sys2Proof.Machine.execWireW addr data s
  | .wireR addr len => Sys2Proof.Machine.execWireR addr len s
  | .wireQ addr len => Sys2Proof.Machine.execWireQ addr len s
  | .wireReply h0 h1 h2 data => Sys2Proof.Machine.execWireReply h0 h1 h2 data s
  | .modeNormal => Sys2Proof.Machine.execModeNormal s
  | .modeWor => Sys2Proof.Machine.execModeWor s
  | .modeConfig => Sys2Proof.Machine.execModeConfig s
  | .modeSleep => Sys2Proof.Machine.execModeSleep s
  | .setPoll us => Sys2Proof.Machine.execSetPoll us s
  | .regWrite addr data => Sys2Proof.Machine.execRegWrite addr data s
  | .regRead addr len => Sys2Proof.Machine.execRegRead addr len s
  | .rssiRead addr len => Sys2Proof.Machine.execRssiRead addr len s
  | .eepromWrite => Sys2Proof.Machine.execEepromWrite s
  | .eepromRead => Sys2Proof.Machine.execEepromRead s
  | .noiseInit => Sys2Proof.Machine.execNoiseInit s
  | .tlmExtract rxb => Sys2Proof.Machine.execTlmExtract rxb s
  | .tlmReset => Sys2Proof.Machine.execTlmReset s
  | .txSegInc => Sys2Proof.Machine.execTxSegInc s
  | .tlmGet => Sys2Proof.Machine.execTlmGet s
  | .getRecord => Sys2Proof.Machine.execGetRecord s
  | .setRecord img => Sys2Proof.Machine.execSetRecord img s
  | .l2cBaud label => Sys2Proof.Machine.execL2cBaud label s
  | .l2cParity label => Sys2Proof.Machine.execL2cParity label s
  | .l2cAir label => Sys2Proof.Machine.execL2cAir label s
  | .l2cPacket label => Sys2Proof.Machine.execL2cPacket label s
  | .l2cPower label => Sys2Proof.Machine.execL2cPower label s
  | .l2cWor label => Sys2Proof.Machine.execL2cWor label s
  | .c2lBaud code => Sys2Proof.Machine.execC2lBaud code s
  | .c2lParity code => Sys2Proof.Machine.execC2lParity code s
  | .c2lAir code => Sys2Proof.Machine.execC2lAir code s
  | .c2lPacket code => Sys2Proof.Machine.execC2lPacket code s
  | .c2lPower code => Sys2Proof.Machine.execC2lPower code s
  | .c2lWor code => Sys2Proof.Machine.execC2lWor code s
  | .c2nBaud code => Sys2Proof.Machine.execC2nBaud code s
  | .c2nParity code => Sys2Proof.Machine.execC2nParity code s
  | .setAddr v => Sys2Proof.Machine.execSetAddr v s
  | .setNetid v => Sys2Proof.Machine.execSetNetid v s
  | .setBaud v => Sys2Proof.Machine.execSetBaud v s
  | .setAir v => Sys2Proof.Machine.execSetAir v s
  | .setParity v => Sys2Proof.Machine.execSetParity v s
  | .setPacket v => Sys2Proof.Machine.execSetPacket v s
  | .setPower v => Sys2Proof.Machine.execSetPower v s
  | .setChannel v => Sys2Proof.Machine.execSetChannel v s
  | .setKey v => Sys2Proof.Machine.execSetKey v s
  | .setNoiseEn v => Sys2Proof.Machine.execSetNoiseEn v s
  | .setRssiEn v => Sys2Proof.Machine.execSetRssiEn v s
  | .setFixed v => Sys2Proof.Machine.execSetFixed v s
  | .setRepeater v => Sys2Proof.Machine.execSetRepeater v s
  | .setLbt v => Sys2Proof.Machine.execSetLbt v s
  | .setWor v => Sys2Proof.Machine.execSetWor v s
  | .setWorCycle v => Sys2Proof.Machine.execSetWorCycle v s
  | .commitAddr v => Sys2Proof.Machine.execCommitAddr v s
  | .commitNetid v => Sys2Proof.Machine.execCommitNetid v s
  | .commitBaud v => Sys2Proof.Machine.execCommitBaud v s
  | .commitAir v => Sys2Proof.Machine.execCommitAir v s
  | .commitParity v => Sys2Proof.Machine.execCommitParity v s
  | .commitPacket v => Sys2Proof.Machine.execCommitPacket v s
  | .commitPower v => Sys2Proof.Machine.execCommitPower v s
  | .commitChannel v => Sys2Proof.Machine.execCommitChannel v s
  | .commitKey v => Sys2Proof.Machine.execCommitKey v s
  | .commitNoiseEn v => Sys2Proof.Machine.execCommitNoiseEn v s
  | .commitRssiEn v => Sys2Proof.Machine.execCommitRssiEn v s
  | .commitFixed v => Sys2Proof.Machine.execCommitFixed v s
  | .commitRepeater v => Sys2Proof.Machine.execCommitRepeater v s
  | .commitLbt v => Sys2Proof.Machine.execCommitLbt v s
  | .commitWor v => Sys2Proof.Machine.execCommitWor v s
  | .commitWorCycle v => Sys2Proof.Machine.execCommitWorCycle v s

end Sys2Proof.Machine
end

