-- ==== Sys2Proof/Machine/Programs.lean ====
section
/-!
DEFINITION. The step list of every operation that has one (spec/10_state.md R40), as one function of the
instruction; Safety.lean and withFetchWord read it, the meanings call the same lists.
-/

namespace Sys2Proof.Machine

/-- The step list `exec` runs for an instruction; empty for an operation of one step (R179, R232, log 4). -/
def stepListOf : Instr → StepList
  | .wireW addr data => wireWSteps addr data
  | .wireR addr len => wireRSteps addr len
  | .wireQ addr len => wireQSteps addr len
  | .wireReply _ _ _ _ => []
  | .modeNormal => modeSteps .normal
  | .modeWor => modeSteps .wor
  | .modeConfig => modeSteps .config
  | .modeSleep => modeSteps .sleep
  | .setPoll _ => []
  | .regWrite addr data => regWriteSteps addr data
  | .regRead addr len => regReadSteps addr len
  | .rssiRead addr len => rssiReadSteps addr len
  | .eepromWrite => eepromWriteSteps (fun n calls sub => ⟨n, calls, sub⟩) false
  | .eepromRead => eepromReadSteps
  | .noiseInit => noiseInitSteps
  | .tlmExtract rxb => tlmExtractSteps rxb
  | .tlmReset | .txSegInc | .tlmGet | .getRecord | .setRecord _
  | .l2cBaud _ | .l2cParity _ | .l2cAir _ | .l2cPacket _ | .l2cPower _ | .l2cWor _
  | .c2lBaud _ | .c2lParity _ | .c2lAir _ | .c2lPacket _ | .c2lPower _ | .c2lWor _
  | .c2nBaud _ | .c2nParity _ | .setAddr _ | .setNetid _ | .setBaud _ | .setAir _
  | .setParity _ | .setPacket _ | .setPower _ | .setChannel _ | .setKey _ | .setNoiseEn _
  | .setRssiEn _ | .setFixed _ | .setRepeater _ | .setLbt _ | .setWor _ | .setWorCycle _ => []
  | .commitAddr v => setCommitSteps (.addr v)
  | .commitNetid v => setCommitSteps (.netid v)
  | .commitBaud v => setCommitSteps (.baud v)
  | .commitAir v => setCommitSteps (.air v)
  | .commitParity v => setCommitSteps (.parity v)
  | .commitPacket v => setCommitSteps (.packet v)
  | .commitPower v => setCommitSteps (.power v)
  | .commitChannel v => setCommitSteps (.channel v)
  | .commitKey v => setCommitSteps (.key v)
  | .commitNoiseEn v => setCommitSteps (.noiseEn v)
  | .commitRssiEn v => setCommitSteps (.rssiEn v)
  | .commitFixed v => setCommitSteps (.fixed v)
  | .commitRepeater v => setCommitSteps (.repeater v)
  | .commitLbt v => setCommitSteps (.lbt v)
  | .commitWor v => setCommitSteps (.wor v)
  | .commitWorCycle v => setCommitSteps (.worCycle v)

end Sys2Proof.Machine
end

