-- ==== Sys2Proof/Machine/HostPort.lean ====
section
/-!
DEFINITION. The host command port (spec/30_encoding.md R120, R121, R124), the reset input
(spec/70_reset_and_hazards.md R380 to R382), and how an instruction's bytes are placed where `step` takes them.
-/

namespace Sys2Proof.Machine

/-- The packet at the head of the command port is taken whole before the first step (R84, R121). -/
def takePacket (s : State) : State := { s with hostCmds := s.hostCmds.tail }

/-- An illegal packet: status 1, no state change, no port event (R124). -/
def rejectPacket (s : State) : State := raiseFault .invalidArgument (takePacket s)

/-- What the command port offers, decoded; nothing while the host offers no packet (R84, R121). -/
def offered (s : State) : Option (Except DecodeError Instr) :=
  s.hostCmds.head?.map (decode .host)

/-- One sample of the reset input is consumed (log 18). -/
def sampleReset (s : State) : State := { s with resetPin := s.resetPin.tail }

/-- The reset input is asserted in this step (R380). -/
def resetAsserted (s : State) : Bool := s.resetPin.headD false

/-- Reset (R380 to R382): every piece of the block's state takes its reset value, an operation in progress is
abandoned without a response, no port event happens; what belongs to the environment (its coming answers, the
host's packets) and the history at the ports stay (log 18). -/
def resetBlock (s : State) : State :=
  { State.reset with
    hostCmds := s.hostCmds
    busyIn := s.busyIn
    ackIn := s.ackIn
    countIn := s.countIn
    readIn := s.readIn
    resetPin := s.resetPin
    responses := s.responses
    trace := s.trace
    frees := s.frees }

/-- The place at which an instruction's step list begins; step 7, RECV, for a reply (R254, log 5). -/
def firstLoc : StepList → Loc
  | [] => topLoc 7 none
  | (loc, _) :: _ => loc

/-- The bytes of one instruction placed where `step` takes its next one: a host packet at the head of the command
port of the idle block, a wire frame or reply as the exchange in progress, whatever its span: DESIGN CHOICE (log 5,
log 6). -/
def placeBytes (space : Space) (bytes : List Byte) (s : State) : State :=
  match space with
  | .host => { s with phase := .idle, hostCmds := bytes :: s.hostCmds, resetPin := [] }
  | .request | .reply =>
    match decode space bytes with
    | .ok i => { s with phase := .run i (firstLoc (stepListOf i)), resetPin := [] }
    | .error _ => { s with phase := .idle, hostCmds := bytes :: s.hostCmds, resetPin := [] }

end Sys2Proof.Machine
end

