-- ==== Sys2Proof/Machine/Step.lean ====
section
/-!
DEFINITION. One step of the machine (spec/10_state.md R40, R41; spec/20_memory.md R84).
-/

namespace Sys2Proof.Machine

/-- One step without reset: the operation in progress runs its next step; in idle the offered packet is taken and
its first step runs; without a packet the block waits (R40, R41, R121, R381). -/
def stepRun (s : State) : Host.Outcome State Fault Refusal :=
  match s.phase with
  | .run op _ => exec op s
  | .idle =>
    match offered s with
    | none => .next s
    | some (.ok i) => exec i (takePacket s)
    | some (.error _) => .next (rejectPacket s)

/-- One step: reset when the reset input is asserted (R380, R382), otherwise `stepRun`. -/
def step (s : State) : Host.Outcome State Fault Refusal :=
  if resetAsserted s then .next (resetBlock (sampleReset s)) else stepRun (sampleReset s)

/-- `s` with the instruction of a table word placed where the next step takes it. -/
def State.withFetchWord (s : State) (nbits w : Nat) : State :=
  placeBytes (tableWord nbits w).1 (tableWord nbits w).2 s

end Sys2Proof.Machine
end

