-- ==== Sys2Proof/Safety.lean ====
section
/-!
DEFINITION. What counts as a safe state and a safe run, in the terms the statements use.
-/

namespace Sys2Proof.Machine

/-! ### Runs of one operation -/

/-- `k` steps of one operation, each a call of `exec`; it stops at a fault or a refusal. -/
def runExec (i : Instr) : Nat → State → Host.Outcome State Fault Refusal
  | 0, s => .next s
  | k + 1, s =>
    match exec i s with
    | .next t => runExec i k t
    | .fault f => .fault f
    | .refused r => .refused r

/-- The six port events of a transition without fault that finds BUSY ready at the first read (R285), newest
first; `b`, `p` are the codes of `U_CFG`. -/
def transitionEvents (t : Mode) (b : BitVec 3) (p : BitVec 2) : List Event := [
  ⟨.dly tSettle, .none⟩,
  ⟨.uRule (readRule t).1 (readRule t).2, .ok⟩,
  ⟨.uCfg b p, .ok⟩,
  ⟨.gWr .b (pins t).2, .ok⟩,
  ⟨.gWr .a (pins t).1, .ok⟩,
  ⟨.gRd, .lvl true⟩]

/-- What a transition without fault leaves in the state, apart from the answers it consumed and `phase`. -/
def afterTransition (t : Mode) (b : BitVec 3) (p : BitVec 2) (s : State) : State :=
  { s with
    tb := b
    tp := p
    mA := (pins t).1
    mB := (pins t).2
    lineA := some (pins t).1
    lineB := some (pins t).2
    uartCfg := some (b, p)
    uartCfgKnown := true
    uartRule := some (readRule t)
    uartRuleKnown := true
    trace := transitionEvents t b p ++ s.trace
    frees := s.frees + 5 }

/-! ### Invariants -/

/-- `phase` names a step of the step list of the operation it names (R40), or an operation without a list. -/
def phaseOk (s : State) : Bool :=
  match s.phase with
  | .idle => true
  | .run op loc => (stepListOf op).isEmpty || (stepListOf op).any (fun e => decide (e.1 = loc))

/-- A response packet: status 0 to 4, and nothing after a status other than 0 (R123, R341, R345). -/
def responseOk : List Byte → Bool
  | [] => false
  | status :: rest => decide (status.toNat ≤ 4) && (decide (status = 0) || rest.isEmpty)

/-- A `TLM_EXTRACT` has run its step 1 and not yet its step 6 (R304). -/
def duringExtract (s : State) : Prop :=
  ∃ rxb n, s.phase = .run (.tlmExtract rxb) ⟨n, [], none⟩ ∧ 2 ≤ n ∧ n ≤ 6

/-- What the spec's bounds and rules say of every state between two steps. -/
structure Inv (s : State) : Prop where
  /-- R40. -/
  phase : phaseOk s = true
  /-- R39, R111: the frame buffers hold at most 12 bytes. -/
  txBuffer : s.txf.length ≤ frameMax
  rxBuffer : s.rxf.length ≤ frameMax
  /-- R45, R46, R311. -/
  samples : s.smp.length ≤ maxSeg
  segments : s.seg.length ≤ maxSeg
  /-- R46: `first <= last`. -/
  segOrder : ∀ g ∈ s.seg, g.first ≤ g.last
  tailOrder : ∀ g, s.tail = some g → g.first ≤ g.last
  /-- R42, R47, R310: between the calls the carry flag is set exactly when the sample of the last call was
  deferred. -/
  deferred : ¬ duringExtract s → diagDeferred s.diag = s.tlmCarry
  /-- R47, R304: inside a call, step 5 has not set `diag[0]` yet, and step 6 is about to copy it to the carry. -/
  deferredInside : ∀ rxb n, s.phase = .run (.tlmExtract rxb) ⟨n, [], none⟩ →
    (2 ≤ n ∧ n ≤ 5 → diagDeferred s.diag = false) ∧ (n = 6 → diagDeferred s.diag = s.scan.expect)
  /-- R304: the open segment of a call begins inside the buffer, and step 3 begins with none open. -/
  openSegment : ∀ rxb n, s.phase = .run (.tlmExtract rxb) ⟨n, [], none⟩ →
    (n = 3 → s.scan.start = none) ∧ (4 ≤ n → ∀ first, s.scan.start = some first → first < rxb.length)
  /-- R48: outside a call nothing is kept of its buffer. -/
  scanDropped : ¬ (∃ rxb n, s.phase = .run (.tlmExtract rxb) ⟨n, [], none⟩ ∧ 2 ≤ n) → s.scan = scanEmpty
  /-- R36: a line whose level is known shows its latch. -/
  lineA : s.lineA = none ∨ s.lineA = some s.mA
  lineB : s.lineB = none ∨ s.lineB = some s.mB
  /-- R123, R341. -/
  responses : ∀ packet ∈ s.responses, responseOk packet = true

/-- In a history (newest first) every write of select-A directly follows a read of BUSY that answered ready, and
every write of select-B directly follows a successful write of select-A (R223, R231). -/
def drivenAfterReady : List Event → Prop
  | [] => True
  | e :: older =>
    (match e.port with
      | .gWr .a _ => older.head? = some ⟨.gRd, .lvl readyLevel⟩
      | .gWr .b _ => ∃ v, older.head? = some ⟨.gWr .a v, .ok⟩
      | _ => True) ∧ drivenAfterReady older

/-- The history keeps the order of R231, and a transition about to write a select line has just seen what that
write waits for. -/
structure PinOrder (s : State) : Prop where
  history : drivenAfterReady s.trace
  beforeA : ∀ op loc, s.phase = .run op loc → loc.sub = some 3 →
    s.trace.head? = some ⟨.gRd, .lvl readyLevel⟩
  beforeB : ∀ op loc, s.phase = .run op loc → loc.sub = some 4 →
    ∃ v, s.trace.head? = some ⟨.gWr .a v, .ok⟩

/-! ### Address map -/

/-- A mapped address of the module register space (R71, R72, R88). -/
def mapped (addr : Nat) : Bool := decide (addr ≤ 0x08) || (decide (0x80 ≤ addr) && decide (addr ≤ 0x86))

/-! ### The instruction a step runs -/

/-- The instruction the next step runs, reset apart: the operation in progress, or in idle the offered one. -/
def current (s : State) : Option Instr :=
  match s.phase with
  | .run op _ => some op
  | .idle =>
    match offered s with
    | some (.ok i) => some i
    | some (.error _) => none
    | none => none

/-- The place a running operation stands at. -/
def placeOf : Phase → Option Loc
  | .idle => none
  | .run _ loc => some loc

/-- The operation `SET_<field>!` of a field value (R203 to R218). -/
def commitInstr : FieldWrite → Instr
  | .addr v => .commitAddr v
  | .netid v => .commitNetid v
  | .baud v => .commitBaud v
  | .air v => .commitAir v
  | .parity v => .commitParity v
  | .packet v => .commitPacket v
  | .power v => .commitPower v
  | .channel v => .commitChannel v
  | .key v => .commitKey v
  | .noiseEn v => .commitNoiseEn v
  | .rssiEn v => .commitRssiEn v
  | .fixed v => .commitFixed v
  | .repeater v => .commitRepeater v
  | .lbt v => .commitLbt v
  | .wor v => .commitWor v
  | .worCycle v => .commitWorCycle v

/-- The `MODE` operation of a target mode (R225, R226, R228, R229). -/
def modeInstr : Mode → Instr
  | .normal => .modeNormal
  | .wor => .modeWor
  | .config => .modeConfig
  | .sleep => .modeSleep

/-! ### Where an operation runs a transition, an exchange, a read rule -/

/-- The operation `i` runs `TRANSITION(t)` with its steps at `place` (R223, R225 to R229, R256, R262, R274, R276,
R196). -/
inductive TransitionAt : Instr → Mode → (Option Nat → Loc) → Prop where
  | mode (t : Mode) : TransitionAt (modeInstr t) t (fun k => ⟨1, [], k⟩)
  | regWriteOpening (addr : Byte) (data : List Byte) :
      TransitionAt (.regWrite addr data) .config (fun k => ⟨3, [], k⟩)
  | regWriteClosing (addr : Byte) (data : List Byte) :
      TransitionAt (.regWrite addr data) .normal (fun k => ⟨10, [], k⟩)
  | regReadOpening (addr len : Byte) : TransitionAt (.regRead addr len) .config (fun k => ⟨3, [], k⟩)
  | regReadClosing (addr len : Byte) : TransitionAt (.regRead addr len) .normal (fun k => ⟨8, [], k⟩)
  | eepromWriteOpening : TransitionAt .eepromWrite .config (fun k => ⟨2, [3], k⟩)
  | eepromWriteClosing : TransitionAt .eepromWrite .normal (fun k => ⟨4, [], k⟩)
  | eepromReadOpening (n : Nat) (h : n = 1 ∨ n = 2) :
      TransitionAt .eepromRead .config (fun k => ⟨n, [3], k⟩)
  | eepromReadClosing (n : Nat) (h : n = 1 ∨ n = 2) :
      TransitionAt .eepromRead .normal (fun k => ⟨n, [8], k⟩)
  | commitOpening (w : FieldWrite) : TransitionAt (commitInstr w) .config (fun k => ⟨3, [2, 3], k⟩)
  | commitClosing (w : FieldWrite) : TransitionAt (commitInstr w) .normal (fun k => ⟨3, [4], k⟩)

/-- The operation `i` runs steps 4 to 9 of `REG_WRITE` at `place` (R256, R274, R196; `wireW`: log 5). -/
inductive WriteExchangeAt : Instr → (Nat → Loc) → Prop where
  | regWrite (addr : Byte) (data : List Byte) : WriteExchangeAt (.regWrite addr data) (fun n => ⟨n, [], none⟩)
  | wireW (addr : Byte) (data : List Byte) : WriteExchangeAt (.wireW addr data) (fun n => ⟨n, [], none⟩)
  | eepromWrite : WriteExchangeAt .eepromWrite (fun n => ⟨2, [n], none⟩)
  | commit (w : FieldWrite) : WriteExchangeAt (commitInstr w) (fun n => ⟨3, [2, n], none⟩)

/-- The operation `i` runs steps 4 to 7 of a read of `len` bytes at `place` (R262, R268, R276, R280; `wireR` and
`wireQ`: log 5). -/
inductive ReadExchangeAt : Instr → Nat → (Nat → Loc) → Prop where
  | regRead (addr len : Byte) : ReadExchangeAt (.regRead addr len) len.toNat (fun n => ⟨n, [], none⟩)
  | rssiRead (addr len : Byte) : ReadExchangeAt (.rssiRead addr len) len.toNat (fun n => ⟨n, [], none⟩)
  | wireR (addr len : Byte) : ReadExchangeAt (.wireR addr len) len.toNat (fun n => ⟨n, [], none⟩)
  | wireQ (addr len : Byte) : ReadExchangeAt (.wireQ addr len) len.toNat (fun n => ⟨n, [], none⟩)
  | eepromReadImage : ReadExchangeAt .eepromRead 9 (fun n => ⟨1, [n], none⟩)
  | eepromReadPid : ReadExchangeAt .eepromRead 7 (fun n => ⟨2, [n], none⟩)
  | noiseInit : ReadExchangeAt .noiseInit 1 (fun n => ⟨1, [n], none⟩)

/-- The operation `i` programs the read rule `(0, timeout)` at `loc`, outside a transition (R268 steps 3 and 8,
R280). -/
inductive ReadRuleAt : Instr → Nat → Loc → Prop where
  | rssiReadGap (addr len : Byte) : ReadRuleAt (.rssiRead addr len) 50 ⟨3, [], none⟩
  | rssiReadImmediate (addr len : Byte) : ReadRuleAt (.rssiRead addr len) 0 ⟨8, [], none⟩
  | noiseInitGap : ReadRuleAt .noiseInit 50 ⟨1, [3], none⟩
  | noiseInitImmediate : ReadRuleAt .noiseInit 0 ⟨1, [8], none⟩

/-- The seventeen operations that write fields of the record in their one step (R180 to R195, R201). -/
def writesRecordAtOnce (i : Instr) : Prop :=
  (∃ m, i = .setRecord m) ∨
  (∃ v, i = .setAddr v) ∨ (∃ v, i = .setNetid v) ∨ (∃ v, i = .setBaud v) ∨ (∃ v, i = .setAir v) ∨
  (∃ v, i = .setParity v) ∨ (∃ v, i = .setPacket v) ∨ (∃ v, i = .setPower v) ∨ (∃ v, i = .setChannel v) ∨
  (∃ v, i = .setKey v) ∨ (∃ v, i = .setNoiseEn v) ∨ (∃ v, i = .setRssiEn v) ∨ (∃ v, i = .setFixed v) ∨
  (∃ v, i = .setRepeater v) ∨ (∃ v, i = .setLbt v) ∨ (∃ v, i = .setWor v) ∨ (∃ v, i = .setWorCycle v)

/-- The places at which a running operation writes the record: the commit point of a set-and-commit (R196, R274
step 3) and step 3 of `EEPROM_READ` (R276). -/
def writesRecordHere (i : Instr) (loc : Option Loc) : Prop :=
  ((∃ w, i = commitInstr w) ∧ loc = some ⟨3, [3], none⟩) ∨
  (i = .eepromRead ∧ loc = some ⟨3, [], none⟩)

/-! ### Responses -/

/-- The state after `done(result)`: only `phase` and the response port changed (R123). -/
def answered (result : List Byte) (s : State) : State :=
  { s with phase := .idle, responses := (0 :: result) :: s.responses }

/-- The state after a fault of this code: only `phase` and the response port changed (R340, R341). -/
def faulted (code : Byte) (s : State) : State :=
  { s with phase := .idle, responses := [code] :: s.responses }

/-! ### How an exchange fails -/

/-- SEND fails: `err`, or a count that is not the frame's length, ends `i` with IOFault, and only the event happened
(R253, R344). -/
def SendFails (i : Instr) (s : State) : Prop :=
  ∀ counts,
    (∀ k, s.countIn = .cnt k :: counts → k ≠ s.txf.length → exec i s =
      .next (faulted 3 { s with
        countIn := counts, frees := s.frees + 1, trace := ⟨.uWr s.txf, .cnt k⟩ :: s.trace })) ∧
    (s.countIn = .err :: counts → exec i s =
      .next (faulted 3 { s with
        countIn := counts, frees := s.frees + 1, trace := ⟨.uWr s.txf, .err⟩ :: s.trace }))

/-- `U_FL` fails: `err` ends `i` with IOFault, and only the event happened (R256 step 6, R344). -/
def FlushFails (i : Instr) (s : State) : Prop :=
  ∀ acks, s.ackIn = .err :: acks → exec i s =
    .next (faulted 3 { s with
      ackIn := acks, frees := s.frees + 1, trace := ⟨.uFl, .err⟩ :: s.trace })

/-- RECV of `k` bytes fails: `err` ends `i` with IOFault, a reply of fewer bytes with ProtocolFault, the bytes in
`rxf`; only the event happened (R254, R344, R346). -/
def ReceiveFails (i : Instr) (k : Nat) (s : State) : Prop :=
  ∀ reads,
    (s.readIn = .err :: reads → exec i s =
      .next (faulted 3 { s with
        readIn := reads, frees := s.frees + 1, trace := ⟨.uRd k, .err⟩ :: s.trace })) ∧
    (∀ reply, s.readIn = .bytes reply :: reads → reply.length < k → reply.length ≤ frameMax →
      exec i s = .next (faulted 4 { s with
        rxf := reply, readIn := reads, frees := s.frees + 1
        trace := ⟨.uRd k, .bytes reply⟩ :: s.trace }))

/-! ### Illegal packets, read from the bytes -/

/-- The largest legal value of field `f` of a one-byte setter (R122). -/
def largestValue (f : Nat) : Nat :=
  if f = 2 ∨ f = 3 ∨ f = 15 then 7
  else if f = 4 ∨ f = 5 ∨ f = 6 then 3
  else if f = 1 ∨ f = 7 then 255
  else 1

/-- A packet that R124 calls illegal, by its bytes: opcode, byte count, operand values, table id, `n`. -/
def illegalPacket : List Byte → Bool
  | [] => true
  | op :: rest =>
    let o := op.toNat
    let n := rest.length
    let at_ (k : Nat) : Nat := (rest.getD k 0).toNat
    if o ∈ [0x00, 0x01, 0x02, 0x03, 0x13, 0x14, 0x15, 0x21, 0x22, 0x23, 0x30] then decide (n ≠ 0)
    else if o = 0x08 then decide (n ≠ 4)
    else if o = 0x10 then decide (n < 2 ∨ n ≠ 2 + at_ 1)
    else if o = 0x11 ∨ o = 0x12 then decide (n ≠ 2)
    else if o = 0x20 then
      decide (n < 2 ∨ n ≠ 2 + (256 * at_ 0 + at_ 1) ∨ 256 * at_ 0 + at_ 1 = 0 ∨
        rxbufMax < 256 * at_ 0 + at_ 1)
    else if o = 0x31 then decide (n ≠ 9)
    else if o = 0x40 then decide (n ≠ 5 ∨ 5 < at_ 0)
    else if o = 0x41 then decide (n ≠ 2 ∨ 5 < at_ 0)
    else if o = 0x42 then decide (n ≠ 2 ∨ 1 < at_ 0)
    else if 0x60 ≤ o ∧ o ≤ 0x7F then
      if o % 16 = 0 ∨ o % 16 = 8 then decide (n ≠ 2)
      else decide (n ≠ 1 ∨ largestValue (o % 16) < at_ 0)
    else true

/-! ### Runs without a fault -/

/-- The control setting's codes, 9600 baud and no parity (R222). -/
def controlBaud : BitVec 3 := (codeOf codec.baud 9600).setWidth 3

def controlParity : BitVec 2 := (codeOf codec.parity 0).setWidth 2

/-- Both codes of a record have a native identifier, so that a transition to Normal or Wor passes its step 1
(R223). -/
def hasNative (r : Record) : Prop :=
  codeToNative codec.baud (r.baud.setWidth 8) ≠ notFound ∧
    codeToNative codec.parity (r.parity.setWidth 8) ≠ notFound

/-- From idle, BUSY ready at the first read and every event acknowledged, the operation ends in eight steps: it
drives the levels `a`, `b`, programs the codes `cb`, `cp` and the read rule `(0, timeout)`, waits 2 ms, answers
done, and changes nothing else (R223, R225 to R229). -/
def ModeCompletes (i : Instr) (a b : Bool) (cb : BitVec 3) (cp : BitVec 2) (timeout : Nat) (s : State) :
    Prop :=
  ∀ busy acks, s.phase = .idle → s.busyIn = .lvl true :: busy →
    s.ackIn = .ok :: .ok :: .ok :: .ok :: acks →
    runExec i 8 s = .next (answered []
      { s with
        tb := cb
        tp := cp
        mA := a
        mB := b
        lineA := some a
        lineB := some b
        uartCfg := some (cb, cp)
        uartCfgKnown := true
        uartRule := some (0, timeout)
        uartRuleKnown := true
        busyIn := busy
        ackIn := acks
        frees := s.frees + 5
        trace := [⟨.dly 2000, .none⟩, ⟨.uRule 0 timeout, .ok⟩, ⟨.uCfg cb cp, .ok⟩,
          ⟨.gWr .b b, .ok⟩, ⟨.gWr .a a, .ok⟩, ⟨.gRd, .lvl true⟩] ++ s.trace })

/-- The state after `TRANSITION(Config)`, the frame out, flush and the reply in: what a write exchange leaves before
its closing transition (R256, R274, R285). -/
def afterWriteSent (frame reply : List Byte) (s : State) : State :=
  { afterTransition .config controlBaud controlParity s with
    txf := frame
    rxf := reply
    frees := s.frees + 8
    trace := [⟨.uRd frame.length, .bytes reply⟩, ⟨.uFl, .ok⟩, ⟨.uWr frame, .cnt frame.length⟩] ++
      (transitionEvents .config controlBaud controlParity ++ s.trace) }

/-- The state after a complete write exchange inside its two transitions: the record `r` written after the exchange,
then `TRANSITION(Normal)` with the codes of `r` (R256, R274, R285). -/
def afterWrite (frame reply : List Byte) (r : Record) (s : State) : State :=
  afterTransition .normal r.baud r.parity { afterWriteSent frame reply s with record := r }

/-- The state after `TRANSITION(Config)`, the frame out and the reply in: what a read exchange leaves before its
closing transition (R262, R285). -/
def afterReadSent (frame reply : List Byte) (len : Nat) (s : State) : State :=
  { afterTransition .config controlBaud controlParity s with
    txf := frame
    rxf := reply
    frees := s.frees + 7
    trace := [⟨.uRd (3 + len), .bytes reply⟩, ⟨.uWr frame, .cnt frame.length⟩] ++
      (transitionEvents .config controlBaud controlParity ++ s.trace) }

/-- The state after a complete read exchange inside its two transitions (R262, R285). -/
def afterReadExchange (frame reply : List Byte) (len : Nat) (s : State) : State :=
  afterTransition .normal s.record.baud s.record.parity (afterReadSent frame reply len s)

/-- The state after a complete exchange on the RSSI channel between its two read rules (R268, R285). -/
def afterRssiExchange (frame reply : List Byte) (len : Nat) (s : State) : State :=
  { s with
    txf := frame
    rxf := reply
    uartRule := some (0, 0)
    uartRuleKnown := true
    frees := s.frees + 4
    trace := [⟨.uRule 0 0, .ok⟩, ⟨.uRd (3 + len), .bytes reply⟩, ⟨.uWr frame, .cnt frame.length⟩,
      ⟨.uRule 0 50, .ok⟩] ++ s.trace }

/-- The answers still to come after an operation took its own. -/
def withInputs (busy : List BusyAnswer) (acks : List AckAnswer) (counts : List CountAnswer)
    (reads : List ReadAnswer) (s : State) : State :=
  { s with busyIn := busy, ackIn := acks, countIn := counts, readIn := reads }

/-- From idle with BUSY ready and no event failing, an echo that equals the request from byte 1 on, and codes
that have native identifiers, the set-and-commit `i` writes the whole image of the record `r`, makes `r` the
record, returns to Normal and answers done, and changes nothing else (R196, R274). -/
def CommitCompletes (i : Instr) (r : Record) (s : State) : Prop :=
  ∀ busy acks counts reads header, s.phase = .idle → hasNative r →
    s.busyIn = .lvl true :: .lvl true :: busy → s.ackIn = List.replicate 9 .ok ++ acks →
    s.countIn = .cnt 12 :: counts →
    s.readIn = .bytes (header :: 0x00 :: 0x09 :: imageBytes (encodeRecord r)) :: reads →
    runExec i 25 s = .next (answered [] (withInputs busy acks counts reads
      { afterWrite (0xC0 :: 0x00 :: 0x09 :: imageBytes (encodeRecord r))
          (header :: 0x00 :: 0x09 :: imageBytes (encodeRecord r)) r s with
        staged := r
        img := encodeRecord r }))

end Sys2Proof.Machine
end

