-- ==== Sys2Proof/WellFormed.lean ====
section
/-!
DEFINITION. Which instruction terms an encoding can carry (spec/30_encoding.md R102 to R105, R122).
-/

namespace Sys2Proof

/-- A term that some packet or frame carries. Host operations: the length operand of `REG_WRITE` is one byte,
that of `TLM_EXTRACT` two bytes (R122). Wire requests: the block builds W and R only for `span_ok`, Q only for
`rssi_span_ok` (R102, R104, R252). Reply: 1 to 9 data bytes (R105, R111). An illegal operand VALUE of a host
operation is no ill-formed term: its packet exists and is answered with status 1 (R124). -/
def Instr.wellFormed : Instr → Bool
  | .wireW addr data => Machine.spanOk addr data.length
  | .wireR addr len => Machine.spanOk addr len.toNat
  | .wireQ addr len => Machine.rssiSpanOk addr len.toNat
  | .wireReply _ _ _ data => decide (1 ≤ data.length) && decide (data.length ≤ 9)
  | .regWrite _ data => decide (data.length < 256)
  | .tlmExtract rxb => decide (rxb.length < 65536)
  | .modeNormal | .modeWor | .modeConfig | .modeSleep | .setPoll _
  | .regRead _ _ | .rssiRead _ _ | .eepromWrite | .eepromRead | .noiseInit
  | .tlmReset | .txSegInc | .tlmGet | .getRecord | .setRecord _
  | .l2cBaud _ | .l2cParity _ | .l2cAir _ | .l2cPacket _ | .l2cPower _ | .l2cWor _
  | .c2lBaud _ | .c2lParity _ | .c2lAir _ | .c2lPacket _ | .c2lPower _ | .c2lWor _
  | .c2nBaud _ | .c2nParity _
  | .setAddr _ | .setNetid _ | .setBaud _ | .setAir _ | .setParity _ | .setPacket _ | .setPower _
  | .setChannel _ | .setKey _ | .setNoiseEn _ | .setRssiEn _ | .setFixed _ | .setRepeater _
  | .setLbt _ | .setWor _ | .setWorCycle _
  | .commitAddr _ | .commitNetid _ | .commitBaud _ | .commitAir _ | .commitParity _ | .commitPacket _
  | .commitPower _ | .commitChannel _ | .commitKey _ | .commitNoiseEn _ | .commitRssiEn _
  | .commitFixed _ | .commitRepeater _ | .commitLbt _ | .commitWor _ | .commitWorCycle _ => true

end Sys2Proof
end

