-- ==== Sys2Proof/Certificates/Slice0/Obligations.lean ====
section
/-!
DEFINITION. The statements for the provers, each a Prop that formalises rules of spec/ or a property of the model.
-/

open Sys2Proof Sys2Proof.Machine

/-! ### Encoding -/

/-- R120, R122: every host operation is what the decoder reads from its packet. -/
def Obligations.DecodeEncodeHost : Prop :=
  ∀ i : Instr, i.wellFormed = true → i.space = .host → decode .host (encode i) = .ok i

/-- R102 to R105, R109: every wire frame and reply the block can see is what the decoder reads from its bytes. -/
def Obligations.DecodeEncodeWire : Prop :=
  ∀ i : Instr, i.wellFormed = true → i.space ≠ .host → decode i.space (encode i) = .ok i

/-- R120, R122: a packet has one meaning; the decoder drops no bit of it, and what it reads is well formed. -/
def Obligations.EncodeDecodeHost : Prop :=
  ∀ (packet : List Byte) (i : Instr), decode .host packet = .ok i →
    encode i = packet ∧ i.wellFormed = true ∧ i.space = .host

/-- R102, R104, R130, K1, K12: a few packets and frames of the spec decode to what they stand for. -/
def Obligations.SpecWordsDecode : Prop :=
  decode .host [0x10, 0x05, 0x01, 0x17] = .ok (.regWrite 0x05 [0x17]) ∧
  decode .host [0x77, 0x17] = .ok (.commitChannel 0x17) ∧
  decode .host [0x02] = .ok .modeConfig ∧
  decode .host [0x40, 0x00, 0x00, 0x01, 0xC2, 0x00] = .ok (.l2cBaud 115200) ∧
  decode .host [0x42, 0x00, 0x03] = .ok (.c2nBaud 3) ∧
  decode .host [0x08, 0x00, 0x00, 0x00, 0xFA] = .ok (.setPoll 250) ∧
  decode .request [0xC0, 0x05, 0x01, 0x17] = .ok (.wireW 0x05 [0x17]) ∧
  decode .request [0xC1, 0x80, 0x07] = .ok (.wireR 0x80 7) ∧
  decode .request [0xC0, 0xC1, 0xC2, 0xC3, 0x00, 0x01] = .ok (.wireQ 0 1)

/-- R124: an illegal packet (unlisted opcode, wrong byte count, illegal operand, table id, `n`) is answered with
status 1, with no state change and no port event. -/
def Obligations.IllegalPacketsAnsweredOne : Prop :=
  ∀ (s : State) (packet : List Byte) (others : List (List Byte)), resetAsserted s = false →
    s.phase = .idle → s.hostCmds = packet :: others → illegalPacket packet = true →
    step s = .next (faulted 1
      { s with hostCmds := others, resetPin := s.resetPin.tail })

/-! ### Codec tables (family 40) -/

/-- R146 to R151: `L2C` answers the code of the label's row, or without one the code of the miss default. The table
is the default CODEC (log 8). -/
def Obligations.LabelToCodeResults : Prop :=
  ∀ (label : Word) (s : State),
    (∃ code, exec (.l2cBaud label) s = .next (answered [code] s) ∧
      ((code, label) ∈ codec.baud ∨
        ((∀ row ∈ codec.baud, row.2 ≠ label) ∧ (code, 9600) ∈ codec.baud))) ∧
    (∃ code, exec (.l2cParity label) s = .next (answered [code] s) ∧
      ((code, label) ∈ codec.parity ∨
        ((∀ row ∈ codec.parity, row.2 ≠ label) ∧ (code, 0) ∈ codec.parity))) ∧
    (∃ code, exec (.l2cAir label) s = .next (answered [code] s) ∧
      ((code, label) ∈ codec.air ∨
        ((∀ row ∈ codec.air, row.2 ≠ label) ∧ (code, 2400) ∈ codec.air))) ∧
    (∃ code, exec (.l2cPacket label) s = .next (answered [code] s) ∧
      ((code, label) ∈ codec.packet ∨
        ((∀ row ∈ codec.packet, row.2 ≠ label) ∧ (code, 32) ∈ codec.packet))) ∧
    (∃ code, exec (.l2cPower label) s = .next (answered [code] s) ∧
      ((code, label) ∈ codec.power ∨
        ((∀ row ∈ codec.power, row.2 ≠ label) ∧ (code, 22) ∈ codec.power))) ∧
    (∃ code, exec (.l2cWor label) s = .next (answered [code] s) ∧
      ((code, label) ∈ codec.wor ∨
        ((∀ row ∈ codec.wor, row.2 ≠ label) ∧ (code, 2000) ∈ codec.wor)))

/-- R152 to R157: `C2L` answers `found = 1` and the label of the code's row, or `found = 0` and four bytes without
value; no other state changes but the counter of free values. The table is the default CODEC (log 8); free bytes are
log 15. -/
def Obligations.CodeToLabelResults : Prop :=
  ∀ (code : Byte) (label : Word) (s : State),
    ((code, label) ∈ codec.baud →
      exec (.c2lBaud code) s = .next (answered (1 :: wordBytes label) s)) ∧
    ((∀ row ∈ codec.baud, row.1 ≠ code) →
      exec (.c2lBaud code) s =
        .next (answered (0 :: freeBytes s 4) { s with frees := s.frees + 4 })) ∧
    ((code, label) ∈ codec.parity →
      exec (.c2lParity code) s = .next (answered (1 :: wordBytes label) s)) ∧
    ((∀ row ∈ codec.parity, row.1 ≠ code) →
      exec (.c2lParity code) s =
        .next (answered (0 :: freeBytes s 4) { s with frees := s.frees + 4 })) ∧
    ((code, label) ∈ codec.air →
      exec (.c2lAir code) s = .next (answered (1 :: wordBytes label) s)) ∧
    ((∀ row ∈ codec.air, row.1 ≠ code) →
      exec (.c2lAir code) s =
        .next (answered (0 :: freeBytes s 4) { s with frees := s.frees + 4 })) ∧
    ((code, label) ∈ codec.packet →
      exec (.c2lPacket code) s = .next (answered (1 :: wordBytes label) s)) ∧
    ((∀ row ∈ codec.packet, row.1 ≠ code) →
      exec (.c2lPacket code) s =
        .next (answered (0 :: freeBytes s 4) { s with frees := s.frees + 4 })) ∧
    ((code, label) ∈ codec.power →
      exec (.c2lPower code) s = .next (answered (1 :: wordBytes label) s)) ∧
    ((∀ row ∈ codec.power, row.1 ≠ code) →
      exec (.c2lPower code) s =
        .next (answered (0 :: freeBytes s 4) { s with frees := s.frees + 4 })) ∧
    ((code, label) ∈ codec.wor →
      exec (.c2lWor code) s = .next (answered (1 :: wordBytes label) s)) ∧
    ((∀ row ∈ codec.wor, row.1 ≠ code) →
      exec (.c2lWor code) s =
        .next (answered (0 :: freeBytes s 4) { s with frees := s.frees + 4 }))

/-- R158, R159: `C2N` answers the code itself where the table has a row for it, and 0xFF where it has none. The
table is the default CODEC (log 8). -/
def Obligations.CodeToNativeResults : Prop :=
  ∀ (code : Byte) (s : State),
    ((∃ label, (code, label) ∈ codec.baud) →
      exec (.c2nBaud code) s = .next (answered [code] s)) ∧
    ((∀ row ∈ codec.baud, row.1 ≠ code) → exec (.c2nBaud code) s = .next (answered [0xFF] s)) ∧
    ((∃ label, (code, label) ∈ codec.parity) →
      exec (.c2nParity code) s = .next (answered [code] s)) ∧
    ((∀ row ∈ codec.parity, row.1 ≠ code) → exec (.c2nParity code) s = .next (answered [0xFF] s))

/-- R160: for every entry of each table of every well-formed CODEC, label to code to label and code to label to
code are the identity. -/
def Obligations.CodecRoundTrips : Prop :=
  ∀ c : Codec, codecWf c = true →
    ∀ td ∈ [(c.baud, baudDefault), (c.parity, parityDefault), (c.air, airDefault),
      (c.packet, packetDefault), (c.power, powerDefault), (c.wor, worDefault)],
    ∀ row ∈ td.1,
      codeToLabel td.1 (labelToCode td.1 td.2 row.2) = some row.2 ∧
      (codeToLabel td.1 row.1).map (labelToCode td.1 td.2) = some row.1

/-! ### Register image and record access (family 41) -/

/-- R175: DECODE after ENCODE is the identity on the sixteen fields; ENCODE after DECODE clears bits 4:2 of byte 4
and is the identity exactly when they are 0. -/
def Obligations.ImageRoundTrip : Prop :=
  (∀ r : Record, decodeRecord (encodeRecord r) = r) ∧
  (∀ m : Image, encodeRecord (decodeRecord m) = { m with reg1 := m.reg1 &&& 0xE3 }) ∧
  (∀ m : Image, encodeRecord (decodeRecord m) = m ↔ m.reg1.extractLsb' 2 3 = 0)

/-- R172 (bit 5 of REG1 and the key's byte order rest on the spec's general knowledge, log 10): every byte of the
image as a number. -/
def Obligations.ImageLayout : Prop :=
  ∀ r : Record,
    256 * (encodeRecord r).addh.toNat + (encodeRecord r).addl.toNat = r.addr.toNat ∧
    (encodeRecord r).netid = r.netid ∧
    (encodeRecord r).reg0.toNat = 32 * r.baud.toNat + 8 * r.parity.toNat + r.air.toNat ∧
    (encodeRecord r).reg1.toNat = 64 * r.packet.toNat + 32 * r.noiseEn.toNat + r.power.toNat ∧
    (encodeRecord r).reg2 = r.channel ∧
    (encodeRecord r).reg3.toNat = 128 * r.rssiEn.toNat + 64 * r.fixed.toNat + 32 * r.repeater.toNat +
      16 * r.lbt.toNat + 8 * r.wor.toNat + r.worCycle.toNat ∧
    256 * (encodeRecord r).keyh.toNat + (encodeRecord r).keyl.toNat = r.key.toNat

/-- R200: `GET_RECORD` answers the image of the record, `pid_valid`, and the seven identification bytes, which are
free bytes while `pid_valid = 0`; no state changes but the counter of free values. Free bytes are log 15; the
image's layout rests on log 10. -/
def Obligations.GetRecordResult : Prop :=
  ∀ s : State,
    (∀ p, s.pid = some p → exec .getRecord s =
      .next (answered (imageBytes (encodeRecord s.record) ++ 1 :: pidBytes p)
        { s with frees := s.frees + 7 })) ∧
    (s.pid = none → exec .getRecord s =
      .next (answered (imageBytes (encodeRecord s.record) ++ 0 :: freeBytes s 7)
        { s with frees := s.frees + 7 }))

/-- R201, R173, R176: `SET_RECORD` gives every field its bits of the image, and changes nothing else. Bit 5 of REG1
and the key's byte order rest on log 10. -/
def Obligations.SetRecordResult : Prop :=
  ∀ (m : Image) (s : State), ∃ r : Record,
    exec (.setRecord m) s = .next (answered [] { s with record := r }) ∧
    r.addr.toNat = 256 * m.addh.toNat + m.addl.toNat ∧ r.netid = m.netid ∧
    r.baud.toNat = m.reg0.toNat / 32 ∧ r.parity.toNat = m.reg0.toNat / 8 % 4 ∧
    r.air.toNat = m.reg0.toNat % 8 ∧
    r.packet.toNat = m.reg1.toNat / 64 ∧ r.noiseEn.toNat = m.reg1.toNat / 32 % 2 ∧
    r.power.toNat = m.reg1.toNat % 4 ∧ r.channel = m.reg2 ∧
    r.rssiEn.toNat = m.reg3.toNat / 128 ∧ r.fixed.toNat = m.reg3.toNat / 64 % 2 ∧
    r.repeater.toNat = m.reg3.toNat / 32 % 2 ∧ r.lbt.toNat = m.reg3.toNat / 16 % 2 ∧
    r.wor.toNat = m.reg3.toNat / 8 % 2 ∧ r.worCycle.toNat = m.reg3.toNat % 8 ∧
    r.key.toNat = 256 * m.keyh.toNat + m.keyl.toNat

/-- R180, R181, R187, R188: the setters whose every operand is legal write their field and nothing else; with the
rules' own examples. That `SET_CHANNEL` takes every byte, without a check of the range 0 to 80, is the spec's own
choice (R187, decision D30). -/
def Obligations.WideSettersWriteTheirField : Prop :=
  ∀ (h : Half) (b : Byte) (s : State),
    exec (.setAddr h) s = .next (answered [] { s with record := { s.record with addr := h } }) ∧
    exec (.setNetid b) s = .next (answered [] { s with record := { s.record with netid := b } }) ∧
    exec (.setChannel b) s = .next (answered [] { s with record := { s.record with channel := b } }) ∧
    exec (.setKey h) s = .next (answered [] { s with record := { s.record with key := h } }) ∧
    decode .host [0x60, 0x12, 0x34] = .ok (.setAddr 0x1234) ∧
    (imageBytes (encodeRecord { s.record with addr := 0x1234 })).take 2 = [0x12, 0x34] ∧
    decode .host [0x61, 0x56] = .ok (.setNetid 0x56) ∧
    decode .host [0x67, 0x17] = .ok (.setChannel 0x17) ∧
    decode .host [0x68, 0xBE, 0xEF] = .ok (.setKey 0xBEEF)

/-- R182 to R186, R195, R179: a code setter with a legal code writes its field and nothing else; with a code above
its width it is InvalidArgument and nothing changes; with the rules' own examples. -/
def Obligations.CodeSettersCheckAndWrite : Prop :=
  ∀ (c : Byte) (s : State),
    (c.toNat ≤ 7 → exec (.setBaud c) s = .next (answered [] { s with record := { s.record with baud := BitVec.ofNat 3 c.toNat } })) ∧
    (7 < c.toNat → exec (.setBaud c) s = .next (faulted 1 s)) ∧
    (c.toNat ≤ 7 → exec (.setAir c) s = .next (answered [] { s with record := { s.record with air := BitVec.ofNat 3 c.toNat } })) ∧
    (7 < c.toNat → exec (.setAir c) s = .next (faulted 1 s)) ∧
    (c.toNat ≤ 3 → exec (.setParity c) s = .next (answered [] { s with record := { s.record with parity := BitVec.ofNat 2 c.toNat } })) ∧
    (3 < c.toNat → exec (.setParity c) s = .next (faulted 1 s)) ∧
    (c.toNat ≤ 3 → exec (.setPacket c) s = .next (answered [] { s with record := { s.record with packet := BitVec.ofNat 2 c.toNat } })) ∧
    (3 < c.toNat → exec (.setPacket c) s = .next (faulted 1 s)) ∧
    (c.toNat ≤ 3 → exec (.setPower c) s = .next (answered [] { s with record := { s.record with power := BitVec.ofNat 2 c.toNat } })) ∧
    (3 < c.toNat → exec (.setPower c) s = .next (faulted 1 s)) ∧
    (c.toNat ≤ 7 → exec (.setWorCycle c) s = .next (answered [] { s with record := { s.record with worCycle := BitVec.ofNat 3 c.toNat } })) ∧
    (7 < c.toNat → exec (.setWorCycle c) s = .next (faulted 1 s)) ∧
    decode .host [0x62, 0x07] = .ok (.setBaud 7) ∧ decode .host [0x63, 0x02] = .ok (.setAir 2) ∧
    decode .host [0x64, 0x02] = .ok (.setParity 2) ∧ decode .host [0x65, 0x03] = .ok (.setPacket 3) ∧
    decode .host [0x66, 0x03] = .ok (.setPower 3) ∧ decode .host [0x6F, 0x07] = .ok (.setWorCycle 7)

/-- R189 to R194, R179: a flag setter with 0 or 1 writes its flag and nothing else; with a larger operand it is
InvalidArgument and nothing changes; with the rules' own examples. -/
def Obligations.FlagSettersCheckAndWrite : Prop :=
  ∀ (b : Byte) (s : State),
    (b.toNat ≤ 1 → exec (.setNoiseEn b) s = .next (answered [] { s with record := { s.record with noiseEn := decide (b = 1) } })) ∧
    (1 < b.toNat → exec (.setNoiseEn b) s = .next (faulted 1 s)) ∧
    (b.toNat ≤ 1 → exec (.setRssiEn b) s = .next (answered [] { s with record := { s.record with rssiEn := decide (b = 1) } })) ∧
    (1 < b.toNat → exec (.setRssiEn b) s = .next (faulted 1 s)) ∧
    (b.toNat ≤ 1 → exec (.setFixed b) s = .next (answered [] { s with record := { s.record with fixed := decide (b = 1) } })) ∧
    (1 < b.toNat → exec (.setFixed b) s = .next (faulted 1 s)) ∧
    (b.toNat ≤ 1 → exec (.setRepeater b) s = .next (answered [] { s with record := { s.record with repeater := decide (b = 1) } })) ∧
    (1 < b.toNat → exec (.setRepeater b) s = .next (faulted 1 s)) ∧
    (b.toNat ≤ 1 → exec (.setLbt b) s = .next (answered [] { s with record := { s.record with lbt := decide (b = 1) } })) ∧
    (1 < b.toNat → exec (.setLbt b) s = .next (faulted 1 s)) ∧
    (b.toNat ≤ 1 → exec (.setWor b) s = .next (answered [] { s with record := { s.record with wor := decide (b = 1) } })) ∧
    (1 < b.toNat → exec (.setWor b) s = .next (faulted 1 s)) ∧
    decode .host [0x69, 0x01] = .ok (.setNoiseEn 1) ∧ decode .host [0x6A, 0x01] = .ok (.setRssiEn 1) ∧
    decode .host [0x6B, 0x01] = .ok (.setFixed 1) ∧ decode .host [0x6C, 0x00] = .ok (.setRepeater 0) ∧
    decode .host [0x6D, 0x01] = .ok (.setLbt 1) ∧ decode .host [0x6E, 0x01] = .ok (.setWor 1)

/-- R196, R203 to R218: each set-and-commit with a legal operand runs to its end in 25 steps when nothing fails,
with the record that has the one field changed. Resting on the spec's choices READY_LEVEL = 1 (log 9), the default
CODEC (log 8), MIN_IMM = MIN_GAP = 0 and FLUSH_ON_READ = false (log 11); the step count is the model's (log 3). -/
def Obligations.SetAndCommitCompletes : Prop :=
  ∀ (h : Half) (b : Byte) (s : State),
    CommitCompletes (.commitAddr h) { s.record with addr := h } s ∧
    CommitCompletes (.commitNetid b) { s.record with netid := b } s ∧
    (b.toNat ≤ 7 →
      CommitCompletes (.commitBaud b) { s.record with baud := BitVec.ofNat 3 b.toNat } s) ∧
    (b.toNat ≤ 7 →
      CommitCompletes (.commitAir b) { s.record with air := BitVec.ofNat 3 b.toNat } s) ∧
    (b.toNat ≤ 3 →
      CommitCompletes (.commitParity b) { s.record with parity := BitVec.ofNat 2 b.toNat } s) ∧
    (b.toNat ≤ 3 →
      CommitCompletes (.commitPacket b) { s.record with packet := BitVec.ofNat 2 b.toNat } s) ∧
    (b.toNat ≤ 3 →
      CommitCompletes (.commitPower b) { s.record with power := BitVec.ofNat 2 b.toNat } s) ∧
    CommitCompletes (.commitChannel b) { s.record with channel := b } s ∧
    CommitCompletes (.commitKey h) { s.record with key := h } s ∧
    (b.toNat ≤ 1 → CommitCompletes (.commitNoiseEn b) { s.record with noiseEn := decide (b = 1) } s) ∧
    (b.toNat ≤ 1 → CommitCompletes (.commitRssiEn b) { s.record with rssiEn := decide (b = 1) } s) ∧
    (b.toNat ≤ 1 → CommitCompletes (.commitFixed b) { s.record with fixed := decide (b = 1) } s) ∧
    (b.toNat ≤ 1 → CommitCompletes (.commitRepeater b) { s.record with repeater := decide (b = 1) } s) ∧
    (b.toNat ≤ 1 → CommitCompletes (.commitLbt b) { s.record with lbt := decide (b = 1) } s) ∧
    (b.toNat ≤ 1 → CommitCompletes (.commitWor b) { s.record with wor := decide (b = 1) } s) ∧
    (b.toNat ≤ 7 →
      CommitCompletes (.commitWorCycle b) { s.record with worCycle := BitVec.ofNat 3 b.toNat } s)

/-- R196, R274: the commit point and the last step of every set-and-commit, as steps of `exec`. The `calls` part of
a place is the model's (log 3). -/
def Obligations.CommitPointWritesStaged : Prop :=
  ∀ (w : FieldWrite) (op : Instr) (s : State),
    (s.phase = .run op ⟨2, [], none⟩ → exec (commitInstr w) s =
      .next { s with
        staged := fieldApply w s.record
        phase := .run (commitInstr w) ⟨3, [1], none⟩ }) ∧
    (s.phase = .run op ⟨3, [3], none⟩ → exec (commitInstr w) s =
      .next { s with
        record := s.staged
        phase := .run (commitInstr w) ⟨3, [4], some 1⟩ }) ∧
    (s.phase = .run op ⟨3, [5], none⟩ → exec (commitInstr w) s = .next (answered [] s))

/-- R196, R257, R255, R353: a set-and-commit whose echo differs from the request in a byte from 1 on ends in
ProtocolFault with the record as before, the pins at Config and the UART at the control setting. Resting on the
spec's choices READY_LEVEL = 1 (log 9), the default CODEC (log 8), MIN_IMM = MIN_GAP = 0 and FLUSH_ON_READ = false
(log 11); the step count is the model's (log 3). -/
def Obligations.EchoMismatchKeepsRecord : Prop :=
  ∀ (w : FieldWrite) (s : State) busy acks counts reads (reply : List Byte),
    s.phase = .idle → fieldLegal w = true → s.busyIn = .lvl true :: busy →
    s.ackIn = List.replicate 5 .ok ++ acks → s.countIn = .cnt 12 :: counts →
    s.readIn = .bytes reply :: reads → reply.length = 12 →
    reply.drop 1 ≠ 0x00 :: 0x09 :: imageBytes (encodeRecord (fieldApply w s.record)) →
    ∃ t, runExec (commitInstr w) 16 s = .next t ∧ t.record = s.record ∧ t.pid = s.pid ∧
      t.phase = .idle ∧ t.responses = [4] :: s.responses ∧ t.mA = false ∧ t.mB = true ∧
      t.uartCfg = some (controlBaud, controlParity) ∧ t.uartCfgKnown = true ∧
      t.uartRule = some (0, 50) ∧ t.uartRuleKnown = true

/-- R196, R353: in every step of a set-and-commit but the commit point the record stays as it is, whatever fails. -/
def Obligations.SetAndCommitKeepsRecordElsewhere : Prop :=
  ∀ (w : FieldWrite) (s t : State), exec (commitInstr w) s = .next t →
    placeOf s.phase ≠ some ⟨3, [3], none⟩ → t.record = s.record

/-- R21 to R31, R353, R406: a step without reset changes the record only in a setter, `SET_RECORD`, the commit
point of a set-and-commit, or step 3 of `EEPROM_READ`. -/
def Obligations.RecordHasOnlyItsWriters : Prop :=
  ∀ s t : State, resetAsserted s = false → step s = .next t → t.record ≠ s.record →
    ∃ i, current s = some i ∧ (writesRecordAtOnce i ∨ writesRecordHere i (placeOf s.phase))

/-! ### Mode controller (family 42) -/

/-- R221, R222, R225 to R229, R233: each `MODE` operation, from every state with any pin levels, drives its pair of
levels, programs its UART setting and read rule and waits 2 ms. Resting on the spec's choices READY_LEVEL = 1 (log
9), the default CODEC (log 8), MIN_IMM = MIN_GAP = 0 and FLUSH_ON_READ = false (log 11); the step count is the
model's (log 3). -/
def Obligations.ModeOperationsComplete : Prop :=
  ∀ s : State,
    (hasNative s.record →
      ModeCompletes .modeNormal false false s.record.baud s.record.parity 0 s) ∧
    (hasNative s.record → ModeCompletes .modeWor true false s.record.baud s.record.parity 0 s) ∧
    ModeCompletes .modeConfig false true controlBaud controlParity 50 s ∧
    ModeCompletes .modeSleep true true controlBaud controlParity 50 s

/-- R223, R36, R62: the two pin writes and the two UART events of every transition, of a `MODE` operation or inside
a transport operation, answered ok. The `calls` part of a place is the model's (log 3). -/
def Obligations.TransitionStepsSucceed : Prop :=
  ∀ (i : Instr) (m : Mode) (place : Option Nat → Loc), TransitionAt i m place →
    ∀ (op : Instr) (s : State) acks, s.ackIn = .ok :: acks →
    (s.phase = .run op (place (some 3)) → exec i s =
      .next { s with
        mA := (pins m).1, lineA := some (pins m).1, ackIn := acks, frees := s.frees + 1
        trace := ⟨.gWr .a (pins m).1, .ok⟩ :: s.trace
        phase := .run i (place (some 4)) }) ∧
    (s.phase = .run op (place (some 4)) → exec i s =
      .next { s with
        mB := (pins m).2, lineB := some (pins m).2, ackIn := acks, frees := s.frees + 1
        trace := ⟨.gWr .b (pins m).2, .ok⟩ :: s.trace
        phase := .run i (place (some 5)) }) ∧
    (s.phase = .run op (place (some 5)) → exec i s =
      .next { s with
        uartCfg := some (s.tb, s.tp), uartCfgKnown := true, ackIn := acks, frees := s.frees + 1
        trace := ⟨.uCfg s.tb s.tp, .ok⟩ :: s.trace
        phase := .run i (place (some 6)) }) ∧
    (s.phase = .run op (place (some 6)) → exec i s =
      .next { s with
        uartRule := some (readRule m), uartRuleKnown := true, ackIn := acks, frees := s.frees + 1
        trace := ⟨.uRule (readRule m).1 (readRule m).2, .ok⟩ :: s.trace
        phase := .run i (place (some 7)) })

/-- R230, R344, R353: an `err` answer in any transition, of a `MODE` operation or the opening or closing one of a
transport operation, and in the read rules of `RSSI_READ` and `NOISE_INIT`, ends the operation with IOFault at that
step: the latch of a failed pin write keeps its level and its line is unknown, the UART's tracked arguments stay and
are no longer known to hold (log 16), no later step runs, nothing is undone. The `calls` part of a place is the
model's (log 3). -/
def Obligations.TransitionFaultsStopAtTheStep : Prop :=
  (∀ (i : Instr) (m : Mode) (place : Option Nat → Loc), TransitionAt i m place →
    ∀ (op : Instr) (s : State) acks busy,
    (s.busyIn = .err :: busy → s.phase = .run op (place (some 2)) → exec i s =
      .next (faulted 3 { s with
        busyIn := busy, frees := s.frees + 1, trace := ⟨.gRd, .err⟩ :: s.trace })) ∧
    (s.ackIn = .err :: acks → s.phase = .run op (place (some 3)) → exec i s =
      .next (faulted 3 { s with
        lineA := none, ackIn := acks, frees := s.frees + 1
        trace := ⟨.gWr .a (pins m).1, .err⟩ :: s.trace })) ∧
    (s.ackIn = .err :: acks → s.phase = .run op (place (some 4)) → exec i s =
      .next (faulted 3 { s with
        lineB := none, ackIn := acks, frees := s.frees + 1
        trace := ⟨.gWr .b (pins m).2, .err⟩ :: s.trace })) ∧
    (s.ackIn = .err :: acks → s.phase = .run op (place (some 5)) → exec i s =
      .next (faulted 3 { s with
        uartCfgKnown := false, ackIn := acks, frees := s.frees + 1
        trace := ⟨.uCfg s.tb s.tp, .err⟩ :: s.trace })) ∧
    (s.ackIn = .err :: acks → s.phase = .run op (place (some 6)) → exec i s =
      .next (faulted 3 { s with
        uartRuleKnown := false, ackIn := acks, frees := s.frees + 1
        trace := ⟨.uRule (readRule m).1 (readRule m).2, .err⟩ :: s.trace }))) ∧
  (∀ (i : Instr) (timeout : Nat) (loc : Loc), ReadRuleAt i timeout loc →
    ∀ (op : Instr) (s : State) acks, s.ackIn = .err :: acks → s.phase = .run op loc → exec i s =
      .next (faulted 3 { s with
        uartRuleKnown := false, ackIn := acks, frees := s.frees + 1
        trace := ⟨.uRule 0 timeout, .err⟩ :: s.trace }))

/-- R223 step 1, R342, R353: a transition to Normal or Wor with a code that has no native identifier is
InvalidArgument before any port event of that transition, with nothing changed by it: in `MODE NORMAL` and
`MODE WOR`, and at the closing transition of every transport operation. There the exchange has happened: the pins
are at Config, and a set-and-commit has already written the record (R207). The table is the default CODEC (log 8);
the whole runs also rest on READY_LEVEL = 1 (log 9) and MIN_IMM = MIN_GAP = 0, FLUSH_ON_READ = false (log 11), and
their step counts are the model's (log 3). -/
def Obligations.CodecMissStopsTransparentModes : Prop :=
  (∀ s : State, s.phase = .idle → ¬ hasNative s.record →
    exec .modeNormal s = .next (faulted 1 s) ∧ exec .modeWor s = .next (faulted 1 s)) ∧
  (∀ (i : Instr) (m : Mode) (place : Option Nat → Loc), TransitionAt i m place → m.transparent = true →
    ∀ (op : Instr) (s : State), s.phase = .run op (place (some 1)) → ¬ hasNative s.record →
      exec i s = .next (faulted 1 s)) ∧
  (∀ (addr len h0 h1 h2 : Byte) (data : List Byte) (s : State) busy acks counts reads,
    s.phase = .idle → ¬ hasNative s.record → s.busyIn = .lvl true :: busy →
    s.readIn = .bytes (h0 :: h1 :: h2 :: data) :: reads →
    (spanOk addr data.length = true → h1 = addr → h2 = BitVec.ofNat 8 data.length →
      s.ackIn = List.replicate 5 .ok ++ acks → s.countIn = .cnt (3 + data.length) :: counts →
      runExec (.regWrite addr data) 16 s = .next (faulted 1 (withInputs busy acks counts reads
        (afterWriteSent (0xC0 :: h1 :: h2 :: data) (h0 :: h1 :: h2 :: data) s)))) ∧
    (spanOk addr len.toNat = true → data.length = len.toNat →
      s.ackIn = List.replicate 4 .ok ++ acks → s.countIn = .cnt 3 :: counts →
      runExec (.regRead addr len) 14 s = .next (faulted 1 (withInputs busy acks counts reads
        (afterReadSent [0xC1, addr, len] (h0 :: h1 :: h2 :: data) len.toNat s)))) ∧
    (h1 = 0x00 → h2 = 0x09 → data = imageBytes (encodeRecord s.record) →
      s.ackIn = List.replicate 5 .ok ++ acks → s.countIn = .cnt 12 :: counts →
      runExec .eepromWrite 16 s = .next (faulted 1 (withInputs busy acks counts reads
        { afterWriteSent (0xC0 :: h1 :: h2 :: data) (h0 :: h1 :: h2 :: data) s with
          img := encodeRecord s.record }))) ∧
    (data.length = 9 → s.ackIn = List.replicate 4 .ok ++ acks → s.countIn = .cnt 3 :: counts →
      runExec .eepromRead 12 s = .next (faulted 1 (withInputs busy acks counts reads
        (afterReadSent [0xC1, 0x00, 0x09] (h0 :: h1 :: h2 :: data) 9 s))))) ∧
  (∀ (w : FieldWrite) (header : Byte) (s : State) busy acks counts reads,
    let r := fieldApply w s.record
    s.phase = .idle → fieldLegal w = true → ¬ hasNative r → s.busyIn = .lvl true :: busy →
    s.ackIn = List.replicate 5 .ok ++ acks → s.countIn = .cnt 12 :: counts →
    s.readIn = .bytes (header :: 0x00 :: 0x09 :: imageBytes (encodeRecord r)) :: reads →
    runExec (commitInstr w) 18 s = .next (faulted 1 (withInputs busy acks counts reads
      { afterWriteSent (0xC0 :: 0x00 :: 0x09 :: imageBytes (encodeRecord r))
          (header :: 0x00 :: 0x09 :: imageBytes (encodeRecord r)) s with
        staged := r
        img := encodeRecord r
        record := r })))

/-- R224, R403: while every read of BUSY answers not ready, a transition, of a `MODE` operation or inside a transport
operation, stays at its step 2 for as many turns as there are answers: no response, no pin write, no fault, one poll
delay a turn. Not ready is level 0 (READY_LEVEL = 1, log 9). -/
def Obligations.BusyPollNeverGivesUp : Prop :=
  ∀ (i : Instr) (m : Mode) (place : Option Nat → Loc), TransitionAt i m place →
    ∀ (n : Nat) (s : State) (busy : List BusyAnswer),
    s.phase = .run i (place (some 2)) →
    s.busyIn = List.replicate n (.lvl false) ++ busy →
    runExec i n s = .next { s with
      busyIn := busy
      frees := s.frees + n
      trace := (List.replicate n
        [⟨.dly s.pollInterval.toNat, .none⟩, ⟨.gRd, .lvl false⟩]).flatten ++ s.trace }

/-- R231, R223, R233: every step keeps the order of a transition's port events: select-A is written only directly
after BUSY answered ready, select-B only directly after select-A was written. Ready is READY_LEVEL = 1 (log 9). -/
def Obligations.StepKeepsPinOrder : Prop :=
  ∀ s t : State, PinOrder s → step s = .next t → PinOrder t

/-- R232: `SET_POLL` takes every 32-bit value and writes the poll interval and nothing else. -/
def Obligations.SetPollResult : Prop :=
  ∀ (us : Word) (s : State),
    exec (.setPoll us) s = .next (answered [] { s with pollInterval := us })

/-! ### Register transport (family 43) -/

/-- R72 to R75: a register span is valid exactly when it has a byte and every byte of it is a mapped address,
without wrap; the four cases of R75; the valid spans of the RSSI channel are (0,1), (0,2) and (1,1). That a
span is checked byte for byte without wrap is the spec's choice D19, and the RSSI bound is its inference D20. -/
def Obligations.ValidSpansAreTheMappedOnes : Prop :=
  ∀ (addr : Byte) (len : Nat),
    (spanOk addr len = true ↔ 1 ≤ len ∧ ∀ k, k < len → mapped (addr.toNat + k) = true) ∧
    (spanOk 0x09 1 = false ∧ spanOk 0x00 9 = true ∧ spanOk 0x80 7 = true ∧ spanOk 0x82 6 = false) ∧
    (rssiSpanOk addr len = true ↔ (addr.toNat, len) ∈ [(0, 1), (0, 2), (1, 1)])

/-- R251, R252, R343, R350: `len = 0` is InvalidArgument whatever the address; any other invalid span is
AddressRange; both leave everything as it was and cause no port event. The step count is the model's (log 3). -/
def Obligations.ChecksComeBeforeAnyPort : Prop :=
  ∀ (addr len : Byte) (data : List Byte) (s : State), s.phase = .idle →
    exec (.regWrite addr []) s = .next (faulted 1 s) ∧
    exec (.regRead addr 0) s = .next (faulted 1 s) ∧
    exec (.rssiRead addr 0) s = .next (faulted 1 s) ∧
    (data ≠ [] → spanOk addr data.length = false →
      runExec (.regWrite addr data) 2 s = .next (faulted 2 s)) ∧
    (len ≠ 0 → spanOk addr len.toNat = false →
      runExec (.regRead addr len) 2 s = .next (faulted 2 s)) ∧
    (len ≠ 0 → rssiSpanOk addr len.toNat = false →
      runExec (.rssiRead addr len) 2 s = .next (faulted 2 s))

/-- R256, R250, R285: `REG_WRITE` of a valid span, with an echo that equals the request from byte 1 on (byte 0
whatever it is), completes in 23 steps; the record is not written. Resting on the spec's choices READY_LEVEL = 1
(log 9), the default CODEC (log 8), MIN_IMM = MIN_GAP = 0 and FLUSH_ON_READ = false (log 11); the step count is the
model's (log 3). -/
def Obligations.RegWriteCompletes : Prop :=
  ∀ (addr : Byte) (data : List Byte) (header : Byte) (s : State) busy acks counts reads,
    s.phase = .idle → spanOk addr data.length = true → hasNative s.record →
    s.busyIn = .lvl true :: .lvl true :: busy → s.ackIn = List.replicate 9 .ok ++ acks →
    s.countIn = .cnt (3 + data.length) :: counts →
    s.readIn = .bytes (header :: addr :: BitVec.ofNat 8 data.length :: data) :: reads →
    runExec (.regWrite addr data) 23 s = .next (answered [] (withInputs busy acks counts reads
      (afterWrite (0xC0 :: addr :: BitVec.ofNat 8 data.length :: data)
        (header :: addr :: BitVec.ofNat 8 data.length :: data) s.record s)))

/-- R257, R106, R346: after the frame and the flush, step 7 of `REG_WRITE` reads as many bytes as the frame has, and
another count is ProtocolFault; step 9 compares bytes 1 to the end and not byte 0, and a difference is
ProtocolFault, with nothing else changed. What a reply of more bytes than asked for does, and that `rxf` keeps its
first 12 bytes, is the model's choice (log 2, log 23). -/
def Obligations.EchoCheckIgnoresByteZero : Prop :=
  ∀ (addr : Byte) (data : List Byte) (op : Instr) (s : State) (b c : Byte) (sent got reply : List Byte)
    reads, s.txf = b :: sent →
    (s.phase = .run op ⟨7, [], none⟩ → s.readIn = .bytes reply :: reads →
      exec (.regWrite addr data) s =
        let read := { s with
          rxf := reply.take 12, readIn := reads, frees := s.frees + 1
          trace := ⟨.uRd (1 + sent.length), .bytes reply⟩ :: s.trace }
        .next (if reply.length = 1 + sent.length
          then { read with phase := .run (.regWrite addr data) ⟨8, [], none⟩ }
          else faulted 4 read)) ∧
    (s.phase = .run op ⟨9, [], none⟩ → s.rxf = c :: got → got.length = sent.length →
      (got = sent → exec (.regWrite addr data) s =
        .next { s with phase := .run (.regWrite addr data) ⟨10, [], some 1⟩ }) ∧
      (got ≠ sent → exec (.regWrite addr data) s = .next (faulted 4 s)))

/-- R262, R250, R107, R285: `REG_READ` of a valid span completes in 21 steps with the last `len` bytes of a reply of
`3 + len` bytes, the three header bytes whatever they are; the record is not written. Resting on the spec's choices
READY_LEVEL = 1 (log 9), the default CODEC (log 8), MIN_IMM = MIN_GAP = 0 and FLUSH_ON_READ = false (log 11); the
step count is the model's (log 3). -/
def Obligations.RegReadCompletes : Prop :=
  ∀ (addr len : Byte) (h0 h1 h2 : Byte) (data : List Byte) (s : State) busy acks counts reads,
    s.phase = .idle → spanOk addr len.toNat = true → hasNative s.record →
    data.length = len.toNat →
    s.busyIn = .lvl true :: .lvl true :: busy → s.ackIn = List.replicate 8 .ok ++ acks →
    s.countIn = .cnt 3 :: counts → s.readIn = .bytes (h0 :: h1 :: h2 :: data) :: reads →
    runExec (.regRead addr len) 21 s = .next (answered data (withInputs busy acks counts reads
      (afterReadExchange [0xC1, addr, len] (h0 :: h1 :: h2 :: data) len.toNat s)))

/-- R268, R285: `RSSI_READ` of a valid span completes in 9 steps with the last `len` bytes of the reply, the gap
rule before and the immediate rule after; pins, baud and parity stay. Resting on the spec's choices MIN_IMM =
MIN_GAP = 0, FLUSH_ON_READ = false and NOISE_ADDR = 0 (log 11); the step count is the model's (log 3). -/
def Obligations.RssiReadCompletes : Prop :=
  ∀ (addr len : Byte) (h0 h1 h2 : Byte) (data : List Byte) (s : State) acks counts reads,
    s.phase = .idle → rssiSpanOk addr len.toNat = true → data.length = len.toNat →
    s.ackIn = .ok :: .ok :: acks → s.countIn = .cnt 6 :: counts →
    s.readIn = .bytes (h0 :: h1 :: h2 :: data) :: reads →
    runExec (.rssiRead addr len) 9 s = .next (answered data (withInputs s.busyIn acks counts reads
      (afterRssiExchange [0xC0, 0xC1, 0xC2, 0xC3, addr, len] (h0 :: h1 :: h2 :: data) len.toNat s)))

/-- R274: `EEPROM_WRITE` writes the image of the record in one frame of 12 bytes and completes in 23 steps, the
record unchanged. Resting on the spec's choices READY_LEVEL = 1 (log 9), the default CODEC (log 8), MIN_IMM =
MIN_GAP = 0 and FLUSH_ON_READ = false (log 11); the step count is the model's (log 3). -/
def Obligations.EepromWriteCompletes : Prop :=
  ∀ (header : Byte) (s : State) busy acks counts reads,
    s.phase = .idle → hasNative s.record →
    s.busyIn = .lvl true :: .lvl true :: busy → s.ackIn = List.replicate 9 .ok ++ acks →
    s.countIn = .cnt 12 :: counts →
    s.readIn = .bytes (header :: 0x00 :: 0x09 :: imageBytes (encodeRecord s.record)) :: reads →
    runExec .eepromWrite 23 s = .next (answered [] (withInputs busy acks counts reads
      { afterWrite (0xC0 :: 0x00 :: 0x09 :: imageBytes (encodeRecord s.record))
          (header :: 0x00 :: 0x09 :: imageBytes (encodeRecord s.record)) s.record s with
        img := encodeRecord s.record }))

/-- R276: `EEPROM_READ` reads (0x00, 9) and (0x80, 7), both closing transitions using the old record, then takes the
decoded image, the identification block and `pid_valid`; it completes in 39 steps. Resting on the spec's choices
READY_LEVEL = 1 (log 9), the default CODEC (log 8), MIN_IMM = MIN_GAP = 0 and FLUSH_ON_READ = false (log 11); the
step count is the model's (log 3). -/
def Obligations.EepromReadCompletes : Prop :=
  ∀ (m : Image) (p : Pid) (a0 a1 a2 b0 b1 b2 : Byte) (s : State) busy acks counts reads,
    s.phase = .idle → hasNative s.record →
    s.busyIn = List.replicate 4 (.lvl true) ++ busy → s.ackIn = List.replicate 16 .ok ++ acks →
    s.countIn = .cnt 3 :: .cnt 3 :: counts →
    s.readIn = .bytes (a0 :: a1 :: a2 :: imageBytes m) :: .bytes (b0 :: b1 :: b2 :: pidBytes p) ::
      reads →
    runExec .eepromRead 39 s = .next (answered [] (withInputs busy acks counts reads
      { afterReadExchange [0xC1, 0x80, 0x07] (b0 :: b1 :: b2 :: pidBytes p) 7
          (afterReadExchange [0xC1, 0x00, 0x09] (a0 :: a1 :: a2 :: imageBytes m) 9 s) with
        img := m
        record := decodeRecord m
        pid := some p }))

/-- R280: `NOISE_INIT` reads one byte of the RSSI channel at `NOISE_ADDR` into `floor_raw`, sets `floor_valid` and
answers the byte; it completes in 8 steps. Resting on the spec's choices MIN_IMM = MIN_GAP = 0, FLUSH_ON_READ =
false and NOISE_ADDR = 0 (log 11); the step count is the model's (log 3). -/
def Obligations.NoiseInitCompletes : Prop :=
  ∀ (h0 h1 h2 v : Byte) (s : State) acks counts reads,
    s.phase = .idle → s.ackIn = .ok :: .ok :: acks → s.countIn = .cnt 6 :: counts →
    s.readIn = .bytes [h0, h1, h2, v] :: reads →
    runExec .noiseInit 8 s = .next (answered [v] (withInputs s.busyIn acks counts reads
      { afterRssiExchange [0xC0, 0xC1, 0xC2, 0xC3, noiseAddr, 1] [h0, h1, h2, v] 1 s with
        floor := some v }))

/-- R253, R254, R255, R344, R346, R350, R353: how SEND, the flush and RECV fail in every operation that writes, and
SEND and RECV in every operation that reads: `err` or a short count is IOFault, a short reply ProtocolFault; pins,
record and UART setting stay as they are. A read has no flush (FLUSH_ON_READ = false, log 11); the wire rows stand
at these places by the model's choice (log 5). -/
def Obligations.ExchangeFaults : Prop :=
  (∀ (i : Instr) (place : Nat → Loc), WriteExchangeAt i place → ∀ (op : Instr) (s : State),
    (s.phase = .run op (place 5) → SendFails i s) ∧
    (s.phase = .run op (place 6) → FlushFails i s) ∧
    (s.phase = .run op (place 7) → ReceiveFails i s.txf.length s)) ∧
  (∀ (i : Instr) (len : Nat) (place : Nat → Loc), ReadExchangeAt i len place → ∀ (op : Instr) (s : State),
    (s.phase = .run op (place 5) → SendFails i s) ∧
    (s.phase = .run op (place 7) → ReceiveFails i (3 + len) s))

/-- R250, R268, R280: no step of `RSSI_READ` or `NOISE_INIT` moves a latch or a line, changes the UART's baud and
parity, writes the record, reads BUSY or waits. That none flushes the UART either rests on FLUSH_ON_READ = false (R268
step 6, log 11). -/
def Obligations.RssiChannelLeavesPinsAlone : Prop :=
  ∀ (addr len : Byte) (s t : State),
    (exec (.rssiRead addr len) s = .next t ∨ exec .noiseInit s = .next t) →
    t.mA = s.mA ∧ t.mB = s.mB ∧ t.lineA = s.lineA ∧ t.lineB = s.lineB ∧ t.uartCfg = s.uartCfg ∧
      t.record = s.record ∧ t.pid = s.pid ∧
      ∃ events, t.trace = events ++ s.trace ∧
        ∀ e ∈ events, (∃ l, e.port = .uWr l) ∨ (∃ k, e.port = .uRd k) ∨ (∃ a b, e.port = .uRule a b)

/-- R10, R102 to R105, R108: the wire rows on their own: the write exchange, the two read exchanges, and the
arrival of a reply. That an exchange run on its own reports its end on the response port, and that it sends its frame
whatever the span, is the model's choice (log 5). -/
def Obligations.WireExchangesComplete : Prop :=
  ∀ (addr len h0 h1 h2 : Byte) (data : List Byte) (s : State) acks counts reads,
    s.phase = .idle →
    (data.length ≤ 9 → s.ackIn = .ok :: acks → s.countIn = .cnt (3 + data.length) :: counts →
      s.readIn = .bytes (h0 :: addr :: BitVec.ofNat 8 data.length :: data) :: reads →
      runExec (.wireW addr data) 7 s = .next (answered [] { s with
        txf := 0xC0 :: addr :: BitVec.ofNat 8 data.length :: data
        rxf := h0 :: addr :: BitVec.ofNat 8 data.length :: data
        ackIn := acks, countIn := counts, readIn := reads, frees := s.frees + 3
        trace := [⟨.uRd (3 + data.length), .bytes (h0 :: addr :: BitVec.ofNat 8 data.length :: data)⟩,
          ⟨.uFl, .ok⟩,
          ⟨.uWr (0xC0 :: addr :: BitVec.ofNat 8 data.length :: data), .cnt (3 + data.length)⟩] ++
            s.trace })) ∧
    (data.length ≤ 9 → data.length = len.toNat → s.countIn = .cnt 3 :: counts →
      s.readIn = .bytes (h0 :: h1 :: h2 :: data) :: reads →
      runExec (.wireR addr len) 5 s = .next (answered data { s with
        txf := [0xC1, addr, len], rxf := h0 :: h1 :: h2 :: data
        countIn := counts, readIn := reads, frees := s.frees + 2
        trace := [⟨.uRd (3 + len.toNat), .bytes (h0 :: h1 :: h2 :: data)⟩,
          ⟨.uWr [0xC1, addr, len], .cnt 3⟩] ++ s.trace })) ∧
    (data.length ≤ 9 → data.length = len.toNat → s.countIn = .cnt 6 :: counts →
      s.readIn = .bytes (h0 :: h1 :: h2 :: data) :: reads →
      runExec (.wireQ addr len) 5 s = .next (answered data { s with
        txf := [0xC0, 0xC1, 0xC2, 0xC3, addr, len], rxf := h0 :: h1 :: h2 :: data
        countIn := counts, readIn := reads, frees := s.frees + 2
        trace := [⟨.uRd (3 + len.toNat), .bytes (h0 :: h1 :: h2 :: data)⟩,
          ⟨.uWr [0xC0, 0xC1, 0xC2, 0xC3, addr, len], .cnt 6⟩] ++ s.trace })) ∧
    (data.length ≤ 9 → exec (.wireReply h0 h1 h2 data) s = .next (answered data { s with
      rxf := h0 :: h1 :: h2 :: data
      trace := ⟨.uRd (3 + data.length), .bytes (h0 :: h1 :: h2 :: data)⟩ :: s.trace }))

/-- R10, R256, R262, R268: steps 4 to 9 of `REG_WRITE` are the write exchange of its frame, steps 4 to 7 of
`REG_READ` and `RSSI_READ` the read exchanges of theirs: each step leaves the same state, `phase` apart. That the wire rows
as instructions stand at those places is the model's choice (log 5), and so is step 8 of `REG_WRITE` as a step that
does nothing (log 3). -/
def Obligations.OperationsRunTheirExchange : Prop :=
  ∀ (addr len : Byte) (data : List Byte) (op : Instr) (s : State) (n : Nat),
    s.phase = .run op ⟨n, [], none⟩ →
    (4 ≤ n → n ≤ 9 → ∃ t u, exec (.regWrite addr data) s = .next t ∧
      exec (.wireW addr data) s = .next u ∧ { t with phase := .idle } = { u with phase := .idle }) ∧
    (4 ≤ n → n ≤ 7 → ∃ t u, exec (.regRead addr len) s = .next t ∧
      exec (.wireR addr len) s = .next u ∧ { t with phase := .idle } = { u with phase := .idle }) ∧
    (4 ≤ n → n ≤ 7 → ∃ t u, exec (.rssiRead addr len) s = .next t ∧
      exec (.wireQ addr len) s = .next u ∧ { t with phase := .idle } = { u with phase := .idle })

/-- R40, R122, R196, R225 to R229, R256 to R280, R304: the last step of every operation that has a step list answers
done with the operation's result, and changes only `phase` and the response port, but that `TLM_EXTRACT` drops its
working values (R48). The last steps of the wire rows are the model's (log 5), and so is the `calls` part of a place
(log 3). -/
def Obligations.LastStepsAnswerDone : Prop :=
  ∀ (addr len : Byte) (data : List Byte) (w : FieldWrite) (op : Instr) (s : State),
    (s.phase = .run op ⟨2, [], none⟩ → exec .modeNormal s = .next (answered [] s) ∧
      exec .modeWor s = .next (answered [] s) ∧ exec .modeConfig s = .next (answered [] s) ∧
      exec .modeSleep s = .next (answered [] s)) ∧
    (s.phase = .run op ⟨11, [], none⟩ → exec (.regWrite addr data) s = .next (answered [] s)) ∧
    (s.phase = .run op ⟨9, [], none⟩ →
      exec (.regRead addr len) s = .next (answered ((s.rxf.drop 3).take len.toNat) s) ∧
      exec (.rssiRead addr len) s = .next (answered ((s.rxf.drop 3).take len.toNat) s)) ∧
    (s.phase = .run op ⟨5, [], none⟩ → exec .eepromWrite s = .next (answered [] s)) ∧
    (s.phase = .run op ⟨4, [], none⟩ → exec .eepromRead s = .next (answered [] s)) ∧
    (∀ h0 h1 h2 v, s.rxf = [h0, h1, h2, v] → s.phase = .run op ⟨3, [], none⟩ →
      exec .noiseInit s = .next (answered [v] s)) ∧
    (s.phase = .run op ⟨3, [5], none⟩ → exec (commitInstr w) s = .next (answered [] s)) ∧
    (s.phase = .run op ⟨7, [], none⟩ → exec (.tlmExtract data) s = .next (answered
      (halfBytes (BitVec.ofNat 16 s.scan.payload.length) ++ s.scan.payload ++
        [BitVec.ofNat 8 s.smp.length] ++ s.smp ++ [s.diag.setWidth 8, if s.tlmCarry then 1 else 0])
      { s with scan := scanEmpty })) ∧
    (s.phase = .run op ⟨10, [], none⟩ → exec (.wireW addr data) s = .next (answered [] s)) ∧
    (s.phase = .run op ⟨8, [], none⟩ →
      exec (.wireR addr len) s = .next (answered ((s.rxf.drop 3).take len.toNat) s) ∧
      exec (.wireQ addr len) s = .next (answered ((s.rxf.drop 3).take len.toNat) s))

/-! ### Telemetry (family 44) -/

/-- R304, R40, R124, R47: `TLM_EXTRACT` of 1 to RXBUF_MAX bytes runs its seven steps one after another, stores what
the extractor found, `diag[0]` being the carry and `diag[1]` the overflow, and answers in the layout of R122; any
other length is InvalidArgument and nothing changes. The working values of the steps are dropped with the last one:
nothing else of the buffer survives (R48). Carried samples are recorded (log 11). -/
def Obligations.TlmExtractStoresAndAnswers : Prop :=
  ∀ (rxb : List Byte) (s : State), s.phase = .idle → ∃ c : Cursor,
    c = extract ⟨Config.segEnd s.tlmCarry, maxSeg, true⟩ s.tlmCarry s.rxSegments rxb ∧
    (1 ≤ rxb.length → rxb.length ≤ rxbufMax →
      (∀ k, 1 ≤ k → k ≤ 6 → ∃ t, runExec (.tlmExtract rxb) k s = .next t ∧
        t.phase = .run (.tlmExtract rxb) ⟨k + 1, [], none⟩ ∧ t.responses = s.responses ∧
        t.trace = s.trace) ∧
      runExec (.tlmExtract rxb) 7 s =
        .next (answered
          (halfBytes (BitVec.ofNat 16 c.payload.length) ++ c.payload ++
            [BitVec.ofNat 8 c.smp.length] ++ c.smp ++
            [BitVec.ofNat 8 (2 * c.overflow.toNat + c.expect.toNat), BitVec.ofNat 8 c.expect.toNat])
          { s with
            smp := c.smp
            seg := c.seg
            tail := c.start.map (fun first => ⟨first, rxb.length - 1⟩)
            diag := BitVec.ofNat 2 (2 * c.overflow.toNat + c.expect.toNat)
            tlmCarry := c.expect
            rxSegments := c.rxSegments
            scan := scanEmpty })) ∧
    ((rxb.length = 0 ∨ rxbufMax < rxb.length) → exec (.tlmExtract rxb) s = .next (faulted 1 s))

/-- R324, for every `SEG_END`: with no carry and no segment end there are zero samples, no segment, the payload is
the buffer, the tail the whole buffer, no carry out, and the count of segments stays. When the last byte is a
payload byte that ends a segment the carry leaves as 1; and with a carry the first byte of the next buffer is that
segment's telemetry byte: no payload, and the first sample if carried samples are recorded. -/
def Obligations.MarkerFreeBuffersAndContinuation : Prop :=
  ∀ (q : ExtractParams) (carry : Bool) (count : Word) (rxb : List Byte) (b : Byte),
    (rxb ≠ [] → (∀ upTo, upTo <+: rxb → upTo ≠ [] → q.segEnd upTo = false) →
      extract q false count rxb =
        { expect := false, start := some 0, payload := rxb, smp := [], seg := [], overflow := false,
          rxSegments := count } ∧
      cursorTail (extract q false count rxb) rxb.length = some ⟨0, rxb.length - 1⟩) ∧
    ((extract q carry count rxb).expect = false → q.segEnd (rxb ++ [b]) = true →
      (extract q carry count (rxb ++ [b])).expect = true) ∧
    (1 ≤ q.maxSeg →
      (extract q true count (b :: rxb)).payload.Sublist rxb ∧
      (∀ g ∈ (extract q true count (b :: rxb)).seg, 1 ≤ g.first) ∧
      (q.carryRecorded = true → (extract q true count (b :: rxb)).smp.head? = some b))

/-- R310, R302, R304 to R307: one more byte: after a segment end it is telemetry and nothing but a sample; as
payload it is appended, produces no sample, and ends a segment exactly when `SEG_END` of the buffer up to it says
so, which is what the counter counts and what the carry and `diag[0]` show when `TLM_EXTRACT` has run its seven
steps with the block's own parameters. -/
def Obligations.EachByteIsPayloadOrTelemetry : Prop :=
  ∀ (q : ExtractParams) (carry : Bool) (count : Word) (rxb : List Byte) (b : Byte),
    let c := extract q carry count rxb
    let d := extract q carry count (rxb ++ [b])
    (c.expect = true → d.expect = false ∧ d.payload = c.payload ∧ d.seg = c.seg ∧
      d.rxSegments = c.rxSegments ∧ d.start = c.start ∧ (d.smp = c.smp ∨ d.smp = c.smp ++ [b])) ∧
    (c.expect = false → d.expect = q.segEnd (rxb ++ [b]) ∧ d.payload = c.payload ++ [b] ∧
      d.smp = c.smp ∧
      d.rxSegments = c.rxSegments + (if q.segEnd (rxb ++ [b]) then 1 else 0) ∧
      d.start = (if q.segEnd (rxb ++ [b]) then none else some (c.start.getD rxb.length))) ∧
    (∀ s : State, q = blockParams carry → s.phase = .idle → s.tlmCarry = carry →
      s.rxSegments = count → rxb.length + 1 ≤ rxbufMax →
      ∃ t, runExec (.tlmExtract (rxb ++ [b])) 7 s = .next t ∧ t.tlmCarry = d.expect ∧
        diagDeferred t.diag = d.expect ∧ t.smp = d.smp)

/-- R311: the capacity changes only what is stored: payload, carry, tail and count are the same for every
`MAX_SEG`; with no overflow the stores are the same too. -/
def Obligations.CapacityOnlyLimitsStoring : Prop :=
  ∀ (segEnd : List Byte → Bool) (m n : Nat) (record carry : Bool) (count : Word) (rxb : List Byte),
    let c := extract ⟨segEnd, m, record⟩ carry count rxb
    let d := extract ⟨segEnd, n, record⟩ carry count rxb
    c.payload = d.payload ∧ c.expect = d.expect ∧ c.start = d.start ∧ c.rxSegments = d.rxSegments ∧
      c.smp.length ≤ m ∧ c.seg.length ≤ m ∧
      (m ≤ n → c.smp <+: d.smp ∧ c.seg <+: d.seg ∧
        (c.overflow = false → c.smp = d.smp ∧ c.seg = d.seg ∧ d.overflow = false))

/-- R305, R306, R312: without overflow, which sample belongs to which segment: with a recorded carry the first
sample is the first byte of the buffer, and every further sample is the byte just after the end of its segment;
a segment has no sample only when it ends the buffer. -/
def Obligations.SamplesFollowTheirSegments : Prop :=
  ∀ (q : ExtractParams) (carry : Bool) (count : Word) (rxb : List Byte), rxb ≠ [] →
    let c := extract q carry count rxb
    let k0 := if carry = true ∧ q.carryRecorded = true then 1 else 0
    c.overflow = false →
    c.smp.length + (if c.expect then 1 else 0) = k0 + c.seg.length ∧
    (k0 = 1 → c.smp[0]? = rxb[0]?) ∧
    (∀ j, k0 + j < c.smp.length →
      ∃ g, c.seg[j]? = some g ∧ c.smp[k0 + j]? = rxb[g.last + 1]?)

/-- R309, R300: without overflow every byte is payload or telemetry, and a telemetry byte is a sample, but for an
unrecorded carried byte: the lengths add up. -/
def Obligations.PayloadAndSamplesAddUp : Prop :=
  ∀ (q : ExtractParams) (carry : Bool) (count : Word) (rxb : List Byte), rxb ≠ [] →
    let c := extract q carry count rxb
    c.payload.Sublist rxb ∧
    (c.overflow = false → c.payload.length + c.smp.length +
      (if carry = true ∧ q.carryRecorded = false then 1 else 0) = rxb.length)

/-- R46, R308: stored segments lie in the buffer, each in order and before the next with its telemetry byte
between; the trailing run begins after them all. -/
def Obligations.SegmentsAreOrderedRanges : Prop :=
  ∀ (q : ExtractParams) (carry : Bool) (count : Word) (rxb : List Byte),
    let c := extract q carry count rxb
    (∀ g ∈ c.seg, g.first ≤ g.last ∧ g.last < rxb.length) ∧
    c.seg.Pairwise (fun g h => g.last + 1 < h.first) ∧
    (∀ first, c.start = some first → first < rxb.length ∧ ∀ g ∈ c.seg, g.last + 1 < first)

/-- R320, R321: `TX_SEG_INC` adds one modulo 2^32; `TLM_RESET` clears the carry, both counters, the stores, the
tail and `diag`, and keeps the floor; neither changes anything else. -/
def Obligations.CountersIncrementAndReset : Prop :=
  ∀ s : State,
    (∃ n : Word, n.toNat = (s.txSegments.toNat + 1) % 2 ^ 32 ∧
      exec .txSegInc s = .next (answered [] { s with txSegments := n })) ∧
    exec .tlmReset s = .next (answered [] { s with
      tlmCarry := false, rxSegments := 0, txSegments := 0, smp := [], seg := [], tail := none
      diag := 0 })

/-- R322, R122, R66: `TLM_GET` answers the telemetry state in the layout of R122 and changes nothing but the counter
of free values; `floor_raw` and `tail` are free bytes while they hold no value. Free bytes are log 15. -/
def Obligations.TlmGetResult : Prop :=
  ∀ s : State, ∃ floorRaw tail4 : List Byte,
    (∀ f, s.floor = some f → floorRaw = [f]) ∧ floorRaw.length = 1 ∧
    (∀ g, s.tail = some g → tail4 = halfBytes (BitVec.ofNat 16 g.first) ++
      halfBytes (BitVec.ofNat 16 g.last)) ∧ tail4.length = 4 ∧
    exec .tlmGet s = .next (answered
      (wordBytes s.rxSegments ++ wordBytes s.txSegments ++ [if s.floor.isSome then 1 else 0] ++
        floorRaw ++ [BitVec.ofNat 8 s.smp.length] ++ s.smp ++ [BitVec.ofNat 8 s.seg.length] ++
        (s.seg.map (fun g => halfBytes (BitVec.ofNat 16 g.first) ++
          halfBytes (BitVec.ofNat 16 g.last))).flatten ++
        [if s.tail.isSome then 1 else 0] ++ tail4 ++ [s.diag.setWidth 8, if s.tlmCarry then 1 else 0])
      { s with frees := s.frees + 5 })

/-- R313 to R315: the SNR of a sample is the exact quotient of the raw bytes; without the sample, without a floor,
or with a floor of 0 it has no value. -/
def Obligations.SnrIsQuotientOfRawBytes : Prop :=
  (∀ raw : Byte, dbm raw = -(1 / 2) * (raw.toNat : Rat)) ∧
  ∀ (s : State) (k : Nat),
    (∀ raw f, s.smp[k]? = some raw → s.floor = some f → f ≠ 0 →
      sampleSnr s k = some ((raw.toNat : Rat) / (f.toNat : Rat))) ∧
    ((s.smp[k]? = none ∨ s.floor = none ∨ s.floor = some 0) → sampleSnr s k = none)

/-! ### The whole machine -/

/-- R40, R84, R121: a step without reset runs the operation in progress, or in idle the instruction that the
offered packet decodes to, with the packet taken; in idle without a packet it waits and nothing changes (R381). A
sample of the reset input is consumed in every step (the model's own, log 18). -/
def Obligations.StepRunsTheDecodedInstruction : Prop :=
  ∀ (s : State), resetAsserted s = false →
    (∀ op loc, s.phase = .run op loc →
      step s = exec op { s with resetPin := s.resetPin.tail }) ∧
    (∀ packet others i, s.phase = .idle → s.hostCmds = packet :: others →
      decode .host packet = .ok i →
      step s = exec i { s with hostCmds := others, resetPin := s.resetPin.tail }) ∧
    (s.phase = .idle → s.hostCmds = [] → step s = .next { s with resetPin := s.resetPin.tail })

/-- R380 to R382: reset in any state, also during an operation, gives every piece of the block's state its reset
value, produces no response and causes no port event. That the history and the host's packets stay is the model's
choice (log 18). -/
def Obligations.ResetAbandonsTheOperation : Prop :=
  ∀ s : State, resetAsserted s = true → ∃ t, step s = .next t ∧
    t.record = State.reset.record ∧ t.pid = none ∧ t.pollInterval = 100 ∧ t.mA = false ∧
    t.mB = false ∧ t.phase = .idle ∧ t.tlmCarry = false ∧ t.rxSegments = 0 ∧ t.txSegments = 0 ∧
    t.floor = none ∧ t.smp = [] ∧ t.seg = [] ∧ t.tail = none ∧ t.diag = 0 ∧
    t.responses = s.responses ∧ t.trace = s.trace ∧ t.hostCmds = s.hostCmds

/-- R65: the reset values the spec gives, and the image of the reset record. The codes are those of the default
CODEC (log 8). -/
def Obligations.ResetValuesOfTheSpec : Prop :=
  let s := State.reset
  (s.record.baud = 0b011 ∧ s.record.air = 0b010 ∧ s.record.parity = 0b00 ∧ s.record.packet = 0b00 ∧
    s.record.power = 0b00 ∧ s.record.worCycle = 0b011 ∧ s.record.channel = 0x32 ∧
    s.record.addr = 0x0000 ∧ s.record.netid = 0x00 ∧ s.record.key = 0x0000 ∧
    s.record.noiseEn = false ∧ s.record.rssiEn = false ∧ s.record.fixed = false ∧
    s.record.repeater = false ∧ s.record.lbt = false ∧ s.record.wor = false) ∧
  pidValid s = false ∧ s.pollInterval = 100 ∧ s.mA = false ∧ s.mB = false ∧ s.phase = .idle ∧
  s.tlmCarry = false ∧ s.rxSegments = 0 ∧ s.txSegments = 0 ∧ floorValid s = false ∧ s.smp = [] ∧
  s.seg = [] ∧ s.tail = none ∧ s.diag = 0 ∧
  imageBytes (encodeRecord s.record) = [0x00, 0x00, 0x00, 0x62, 0x00, 0x32, 0x03, 0x00, 0x00]

/-- The invariants hold at reset, where no port event has happened. -/
def Obligations.ResetMeetsTheInvariants : Prop := Inv State.reset ∧ PinOrder State.reset

/-- R36, R39, R40, R42, R45, R46, R47, R48, R123, R310, R311, R341, R345: every step keeps the invariants of Safety.lean. -/
def Obligations.StepKeepsInvariants : Prop :=
  ∀ s t : State, Inv s → step s = .next t → Inv t

/-- R40, R352: a state whose `phase` names a step of its operation never stops: every step answers a next state.
Faults of the spec are responses, not stops. -/
def Obligations.NoStepEverStops : Prop :=
  ∀ s : State, phaseOk s = true → ∃ t, step s = .next t

/-- R121, R340, R83, R380: exactly one response per accepted command: without reset, a step that leaves a running
operation or a taken packet in idle adds exactly one response; no other step adds any, nor does a reset. A step takes
a packet only in idle; it adds port events to the history and removes none, at most two of them. That a poll turn is
one step with up to two events is the model's choice (log 3). -/
def Obligations.OneResponsePerOperation : Prop :=
  ∀ s t : State, step s = .next t →
    (resetAsserted s = false → t.phase = .idle → (s.phase ≠ .idle ∨ s.hostCmds ≠ []) →
      ∃ packet, t.responses = packet :: s.responses) ∧
    (t.responses = s.responses ∨ (t.phase = .idle ∧ ∃ packet, t.responses = packet :: s.responses)) ∧
    (resetAsserted s = true → t.responses = s.responses) ∧
    (s.phase = .idle → s.hostCmds = [] → t.responses = s.responses) ∧
    (t.hostCmds = s.hostCmds ∨
      (s.phase = .idle ∧ resetAsserted s = false ∧ t.hostCmds = s.hostCmds.tail)) ∧
    ∃ events, t.trace = events ++ s.trace ∧ events.length ≤ 2

/-- R32, R35, R36, R42, R43, R44: which operations write the other state, reset apart: `pid` only step 3 of
`EEPROM_READ`; the poll interval only `SET_POLL`; the floor only step 2 of `NOISE_INIT`; the sent counter only
`TX_SEG_INC` and `TLM_RESET`; carry, received counter, samples, segments, tail and `diag` only `TLM_EXTRACT` and
`TLM_RESET`; select-A and select-B only steps 3 and 4 of a transition. -/
def Obligations.OtherStateHasOnlyItsWriters : Prop :=
  ∀ s t : State, resetAsserted s = false → step s = .next t →
    (t.pid ≠ s.pid → current s = some .eepromRead ∧ placeOf s.phase = some ⟨3, [], none⟩) ∧
    (t.pollInterval ≠ s.pollInterval → ∃ us, current s = some (.setPoll us)) ∧
    (t.floor ≠ s.floor → current s = some .noiseInit ∧ placeOf s.phase = some ⟨2, [], none⟩) ∧
    (t.txSegments ≠ s.txSegments → current s = some .txSegInc ∨ current s = some .tlmReset) ∧
    (t.tlmCarry ≠ s.tlmCarry ∨ t.rxSegments ≠ s.rxSegments ∨ t.smp ≠ s.smp ∨ t.seg ≠ s.seg ∨
        t.tail ≠ s.tail ∨ t.diag ≠ s.diag →
      current s = some .tlmReset ∨ ∃ rxb, current s = some (.tlmExtract rxb)) ∧
    (t.mA ≠ s.mA → ∃ loc, placeOf s.phase = some loc ∧ loc.sub = some 3) ∧
    (t.mB ≠ s.mB → ∃ loc, placeOf s.phase = some loc ∧ loc.sub = some 4)
end

