-- ==== Sys2Proof/Laws/State.lean ====
section
/-!
SUPPORT. One lemma per field and update of State, so that no later proof unfolds an update.
-/

namespace Sys2Proof.Machine

@[simp] theorem finish_eq_respond (r : List Byte) (s : State) : finish r s = respond (0 :: r) s := rfl
@[simp] theorem raiseFault_eq_respond (f : FaultClass) (s : State) :
    raiseFault f s = respond [faultCode f] s := rfl
@[simp] theorem delay_eq_logEvent (us : Nat) (s : State) : delay us s = logEvent (.dly us) .none s := rfl

@[simp] theorem respond_record (packet : List Byte) (s : State) : (respond packet s).record = s.record := rfl
@[simp] theorem respond_pid (packet : List Byte) (s : State) : (respond packet s).pid = s.pid := rfl
@[simp] theorem respond_pollInterval (packet : List Byte) (s : State) : (respond packet s).pollInterval = s.pollInterval := rfl
@[simp] theorem respond_mA (packet : List Byte) (s : State) : (respond packet s).mA = s.mA := rfl
@[simp] theorem respond_mB (packet : List Byte) (s : State) : (respond packet s).mB = s.mB := rfl
@[simp] theorem respond_txf (packet : List Byte) (s : State) : (respond packet s).txf = s.txf := rfl
@[simp] theorem respond_rxf (packet : List Byte) (s : State) : (respond packet s).rxf = s.rxf := rfl
@[simp] theorem respond_phase (packet : List Byte) (s : State) : (respond packet s).phase = .idle := rfl
@[simp] theorem respond_tb (packet : List Byte) (s : State) : (respond packet s).tb = s.tb := rfl
@[simp] theorem respond_tp (packet : List Byte) (s : State) : (respond packet s).tp = s.tp := rfl
@[simp] theorem respond_staged (packet : List Byte) (s : State) : (respond packet s).staged = s.staged := rfl
@[simp] theorem respond_img (packet : List Byte) (s : State) : (respond packet s).img = s.img := rfl
@[simp] theorem respond_tlmCarry (packet : List Byte) (s : State) : (respond packet s).tlmCarry = s.tlmCarry := rfl
@[simp] theorem respond_scan (packet : List Byte) (s : State) : (respond packet s).scan = s.scan := rfl
@[simp] theorem respond_rxSegments (packet : List Byte) (s : State) : (respond packet s).rxSegments = s.rxSegments := rfl
@[simp] theorem respond_txSegments (packet : List Byte) (s : State) : (respond packet s).txSegments = s.txSegments := rfl
@[simp] theorem respond_floor (packet : List Byte) (s : State) : (respond packet s).floor = s.floor := rfl
@[simp] theorem respond_smp (packet : List Byte) (s : State) : (respond packet s).smp = s.smp := rfl
@[simp] theorem respond_seg (packet : List Byte) (s : State) : (respond packet s).seg = s.seg := rfl
@[simp] theorem respond_tail (packet : List Byte) (s : State) : (respond packet s).tail = s.tail := rfl
@[simp] theorem respond_diag (packet : List Byte) (s : State) : (respond packet s).diag = s.diag := rfl
@[simp] theorem respond_uartCfg (packet : List Byte) (s : State) : (respond packet s).uartCfg = s.uartCfg := rfl
@[simp] theorem respond_uartCfgKnown (packet : List Byte) (s : State) : (respond packet s).uartCfgKnown = s.uartCfgKnown := rfl
@[simp] theorem respond_uartRule (packet : List Byte) (s : State) : (respond packet s).uartRule = s.uartRule := rfl
@[simp] theorem respond_uartRuleKnown (packet : List Byte) (s : State) : (respond packet s).uartRuleKnown = s.uartRuleKnown := rfl
@[simp] theorem respond_lineA (packet : List Byte) (s : State) : (respond packet s).lineA = s.lineA := rfl
@[simp] theorem respond_lineB (packet : List Byte) (s : State) : (respond packet s).lineB = s.lineB := rfl
@[simp] theorem respond_hostCmds (packet : List Byte) (s : State) : (respond packet s).hostCmds = s.hostCmds := rfl
@[simp] theorem respond_busyIn (packet : List Byte) (s : State) : (respond packet s).busyIn = s.busyIn := rfl
@[simp] theorem respond_ackIn (packet : List Byte) (s : State) : (respond packet s).ackIn = s.ackIn := rfl
@[simp] theorem respond_countIn (packet : List Byte) (s : State) : (respond packet s).countIn = s.countIn := rfl
@[simp] theorem respond_readIn (packet : List Byte) (s : State) : (respond packet s).readIn = s.readIn := rfl
@[simp] theorem respond_resetPin (packet : List Byte) (s : State) : (respond packet s).resetPin = s.resetPin := rfl
@[simp] theorem respond_responses (packet : List Byte) (s : State) : (respond packet s).responses = packet :: s.responses := rfl
@[simp] theorem respond_trace (packet : List Byte) (s : State) : (respond packet s).trace = s.trace := rfl
@[simp] theorem respond_frees (packet : List Byte) (s : State) : (respond packet s).frees = s.frees := rfl

@[simp] theorem logEvent_record (p : PortEvent) (a : Answer) (s : State) : (logEvent p a s).record = s.record := rfl
@[simp] theorem logEvent_pid (p : PortEvent) (a : Answer) (s : State) : (logEvent p a s).pid = s.pid := rfl
@[simp] theorem logEvent_pollInterval (p : PortEvent) (a : Answer) (s : State) : (logEvent p a s).pollInterval = s.pollInterval := rfl
@[simp] theorem logEvent_mA (p : PortEvent) (a : Answer) (s : State) : (logEvent p a s).mA = s.mA := rfl
@[simp] theorem logEvent_mB (p : PortEvent) (a : Answer) (s : State) : (logEvent p a s).mB = s.mB := rfl
@[simp] theorem logEvent_txf (p : PortEvent) (a : Answer) (s : State) : (logEvent p a s).txf = s.txf := rfl
@[simp] theorem logEvent_rxf (p : PortEvent) (a : Answer) (s : State) : (logEvent p a s).rxf = s.rxf := rfl
@[simp] theorem logEvent_phase (p : PortEvent) (a : Answer) (s : State) : (logEvent p a s).phase = s.phase := rfl
@[simp] theorem logEvent_tb (p : PortEvent) (a : Answer) (s : State) : (logEvent p a s).tb = s.tb := rfl
@[simp] theorem logEvent_tp (p : PortEvent) (a : Answer) (s : State) : (logEvent p a s).tp = s.tp := rfl
@[simp] theorem logEvent_staged (p : PortEvent) (a : Answer) (s : State) : (logEvent p a s).staged = s.staged := rfl
@[simp] theorem logEvent_img (p : PortEvent) (a : Answer) (s : State) : (logEvent p a s).img = s.img := rfl
@[simp] theorem logEvent_tlmCarry (p : PortEvent) (a : Answer) (s : State) : (logEvent p a s).tlmCarry = s.tlmCarry := rfl
@[simp] theorem logEvent_scan (p : PortEvent) (a : Answer) (s : State) : (logEvent p a s).scan = s.scan := rfl
@[simp] theorem logEvent_rxSegments (p : PortEvent) (a : Answer) (s : State) : (logEvent p a s).rxSegments = s.rxSegments := rfl
@[simp] theorem logEvent_txSegments (p : PortEvent) (a : Answer) (s : State) : (logEvent p a s).txSegments = s.txSegments := rfl
@[simp] theorem logEvent_floor (p : PortEvent) (a : Answer) (s : State) : (logEvent p a s).floor = s.floor := rfl
@[simp] theorem logEvent_smp (p : PortEvent) (a : Answer) (s : State) : (logEvent p a s).smp = s.smp := rfl
@[simp] theorem logEvent_seg (p : PortEvent) (a : Answer) (s : State) : (logEvent p a s).seg = s.seg := rfl
@[simp] theorem logEvent_tail (p : PortEvent) (a : Answer) (s : State) : (logEvent p a s).tail = s.tail := rfl
@[simp] theorem logEvent_diag (p : PortEvent) (a : Answer) (s : State) : (logEvent p a s).diag = s.diag := rfl
@[simp] theorem logEvent_uartCfg (p : PortEvent) (a : Answer) (s : State) : (logEvent p a s).uartCfg = s.uartCfg := rfl
@[simp] theorem logEvent_uartCfgKnown (p : PortEvent) (a : Answer) (s : State) : (logEvent p a s).uartCfgKnown = s.uartCfgKnown := rfl
@[simp] theorem logEvent_uartRule (p : PortEvent) (a : Answer) (s : State) : (logEvent p a s).uartRule = s.uartRule := rfl
@[simp] theorem logEvent_uartRuleKnown (p : PortEvent) (a : Answer) (s : State) : (logEvent p a s).uartRuleKnown = s.uartRuleKnown := rfl
@[simp] theorem logEvent_lineA (p : PortEvent) (a : Answer) (s : State) : (logEvent p a s).lineA = s.lineA := rfl
@[simp] theorem logEvent_lineB (p : PortEvent) (a : Answer) (s : State) : (logEvent p a s).lineB = s.lineB := rfl
@[simp] theorem logEvent_hostCmds (p : PortEvent) (a : Answer) (s : State) : (logEvent p a s).hostCmds = s.hostCmds := rfl
@[simp] theorem logEvent_busyIn (p : PortEvent) (a : Answer) (s : State) : (logEvent p a s).busyIn = s.busyIn := rfl
@[simp] theorem logEvent_ackIn (p : PortEvent) (a : Answer) (s : State) : (logEvent p a s).ackIn = s.ackIn := rfl
@[simp] theorem logEvent_countIn (p : PortEvent) (a : Answer) (s : State) : (logEvent p a s).countIn = s.countIn := rfl
@[simp] theorem logEvent_readIn (p : PortEvent) (a : Answer) (s : State) : (logEvent p a s).readIn = s.readIn := rfl
@[simp] theorem logEvent_resetPin (p : PortEvent) (a : Answer) (s : State) : (logEvent p a s).resetPin = s.resetPin := rfl
@[simp] theorem logEvent_responses (p : PortEvent) (a : Answer) (s : State) : (logEvent p a s).responses = s.responses := rfl
@[simp] theorem logEvent_trace (p : PortEvent) (a : Answer) (s : State) : (logEvent p a s).trace = ⟨p, a⟩ :: s.trace := rfl
@[simp] theorem logEvent_frees (p : PortEvent) (a : Answer) (s : State) : (logEvent p a s).frees = s.frees := rfl

@[simp] theorem afterBusy_record (s : State) : (afterBusy s).record = s.record := rfl
@[simp] theorem afterBusy_pid (s : State) : (afterBusy s).pid = s.pid := rfl
@[simp] theorem afterBusy_pollInterval (s : State) : (afterBusy s).pollInterval = s.pollInterval := rfl
@[simp] theorem afterBusy_mA (s : State) : (afterBusy s).mA = s.mA := rfl
@[simp] theorem afterBusy_mB (s : State) : (afterBusy s).mB = s.mB := rfl
@[simp] theorem afterBusy_txf (s : State) : (afterBusy s).txf = s.txf := rfl
@[simp] theorem afterBusy_rxf (s : State) : (afterBusy s).rxf = s.rxf := rfl
@[simp] theorem afterBusy_phase (s : State) : (afterBusy s).phase = s.phase := rfl
@[simp] theorem afterBusy_tb (s : State) : (afterBusy s).tb = s.tb := rfl
@[simp] theorem afterBusy_tp (s : State) : (afterBusy s).tp = s.tp := rfl
@[simp] theorem afterBusy_staged (s : State) : (afterBusy s).staged = s.staged := rfl
@[simp] theorem afterBusy_img (s : State) : (afterBusy s).img = s.img := rfl
@[simp] theorem afterBusy_tlmCarry (s : State) : (afterBusy s).tlmCarry = s.tlmCarry := rfl
@[simp] theorem afterBusy_scan (s : State) : (afterBusy s).scan = s.scan := rfl
@[simp] theorem afterBusy_rxSegments (s : State) : (afterBusy s).rxSegments = s.rxSegments := rfl
@[simp] theorem afterBusy_txSegments (s : State) : (afterBusy s).txSegments = s.txSegments := rfl
@[simp] theorem afterBusy_floor (s : State) : (afterBusy s).floor = s.floor := rfl
@[simp] theorem afterBusy_smp (s : State) : (afterBusy s).smp = s.smp := rfl
@[simp] theorem afterBusy_seg (s : State) : (afterBusy s).seg = s.seg := rfl
@[simp] theorem afterBusy_tail (s : State) : (afterBusy s).tail = s.tail := rfl
@[simp] theorem afterBusy_diag (s : State) : (afterBusy s).diag = s.diag := rfl
@[simp] theorem afterBusy_uartCfg (s : State) : (afterBusy s).uartCfg = s.uartCfg := rfl
@[simp] theorem afterBusy_uartCfgKnown (s : State) : (afterBusy s).uartCfgKnown = s.uartCfgKnown := rfl
@[simp] theorem afterBusy_uartRule (s : State) : (afterBusy s).uartRule = s.uartRule := rfl
@[simp] theorem afterBusy_uartRuleKnown (s : State) : (afterBusy s).uartRuleKnown = s.uartRuleKnown := rfl
@[simp] theorem afterBusy_lineA (s : State) : (afterBusy s).lineA = s.lineA := rfl
@[simp] theorem afterBusy_lineB (s : State) : (afterBusy s).lineB = s.lineB := rfl
@[simp] theorem afterBusy_hostCmds (s : State) : (afterBusy s).hostCmds = s.hostCmds := rfl
@[simp] theorem afterBusy_busyIn (s : State) : (afterBusy s).busyIn = s.busyIn.tail := rfl
@[simp] theorem afterBusy_ackIn (s : State) : (afterBusy s).ackIn = s.ackIn := rfl
@[simp] theorem afterBusy_countIn (s : State) : (afterBusy s).countIn = s.countIn := rfl
@[simp] theorem afterBusy_readIn (s : State) : (afterBusy s).readIn = s.readIn := rfl
@[simp] theorem afterBusy_resetPin (s : State) : (afterBusy s).resetPin = s.resetPin := rfl
@[simp] theorem afterBusy_responses (s : State) : (afterBusy s).responses = s.responses := rfl
@[simp] theorem afterBusy_trace (s : State) : (afterBusy s).trace = ⟨.gRd, busyAnswer (nextBusy s)⟩ :: s.trace := rfl
@[simp] theorem afterBusy_frees (s : State) : (afterBusy s).frees = s.frees + 1 := rfl

@[simp] theorem afterAck_record (p : PortEvent) (s : State) : (afterAck p s).record = s.record := rfl
@[simp] theorem afterAck_pid (p : PortEvent) (s : State) : (afterAck p s).pid = s.pid := rfl
@[simp] theorem afterAck_pollInterval (p : PortEvent) (s : State) : (afterAck p s).pollInterval = s.pollInterval := rfl
@[simp] theorem afterAck_mA (p : PortEvent) (s : State) : (afterAck p s).mA = s.mA := rfl
@[simp] theorem afterAck_mB (p : PortEvent) (s : State) : (afterAck p s).mB = s.mB := rfl
@[simp] theorem afterAck_txf (p : PortEvent) (s : State) : (afterAck p s).txf = s.txf := rfl
@[simp] theorem afterAck_rxf (p : PortEvent) (s : State) : (afterAck p s).rxf = s.rxf := rfl
@[simp] theorem afterAck_phase (p : PortEvent) (s : State) : (afterAck p s).phase = s.phase := rfl
@[simp] theorem afterAck_tb (p : PortEvent) (s : State) : (afterAck p s).tb = s.tb := rfl
@[simp] theorem afterAck_tp (p : PortEvent) (s : State) : (afterAck p s).tp = s.tp := rfl
@[simp] theorem afterAck_staged (p : PortEvent) (s : State) : (afterAck p s).staged = s.staged := rfl
@[simp] theorem afterAck_img (p : PortEvent) (s : State) : (afterAck p s).img = s.img := rfl
@[simp] theorem afterAck_tlmCarry (p : PortEvent) (s : State) : (afterAck p s).tlmCarry = s.tlmCarry := rfl
@[simp] theorem afterAck_scan (p : PortEvent) (s : State) : (afterAck p s).scan = s.scan := rfl
@[simp] theorem afterAck_rxSegments (p : PortEvent) (s : State) : (afterAck p s).rxSegments = s.rxSegments := rfl
@[simp] theorem afterAck_txSegments (p : PortEvent) (s : State) : (afterAck p s).txSegments = s.txSegments := rfl
@[simp] theorem afterAck_floor (p : PortEvent) (s : State) : (afterAck p s).floor = s.floor := rfl
@[simp] theorem afterAck_smp (p : PortEvent) (s : State) : (afterAck p s).smp = s.smp := rfl
@[simp] theorem afterAck_seg (p : PortEvent) (s : State) : (afterAck p s).seg = s.seg := rfl
@[simp] theorem afterAck_tail (p : PortEvent) (s : State) : (afterAck p s).tail = s.tail := rfl
@[simp] theorem afterAck_diag (p : PortEvent) (s : State) : (afterAck p s).diag = s.diag := rfl
@[simp] theorem afterAck_uartCfg (p : PortEvent) (s : State) : (afterAck p s).uartCfg = s.uartCfg := rfl
@[simp] theorem afterAck_uartCfgKnown (p : PortEvent) (s : State) : (afterAck p s).uartCfgKnown = s.uartCfgKnown := rfl
@[simp] theorem afterAck_uartRule (p : PortEvent) (s : State) : (afterAck p s).uartRule = s.uartRule := rfl
@[simp] theorem afterAck_uartRuleKnown (p : PortEvent) (s : State) : (afterAck p s).uartRuleKnown = s.uartRuleKnown := rfl
@[simp] theorem afterAck_lineA (p : PortEvent) (s : State) : (afterAck p s).lineA = s.lineA := rfl
@[simp] theorem afterAck_lineB (p : PortEvent) (s : State) : (afterAck p s).lineB = s.lineB := rfl
@[simp] theorem afterAck_hostCmds (p : PortEvent) (s : State) : (afterAck p s).hostCmds = s.hostCmds := rfl
@[simp] theorem afterAck_busyIn (p : PortEvent) (s : State) : (afterAck p s).busyIn = s.busyIn := rfl
@[simp] theorem afterAck_ackIn (p : PortEvent) (s : State) : (afterAck p s).ackIn = s.ackIn.tail := rfl
@[simp] theorem afterAck_countIn (p : PortEvent) (s : State) : (afterAck p s).countIn = s.countIn := rfl
@[simp] theorem afterAck_readIn (p : PortEvent) (s : State) : (afterAck p s).readIn = s.readIn := rfl
@[simp] theorem afterAck_resetPin (p : PortEvent) (s : State) : (afterAck p s).resetPin = s.resetPin := rfl
@[simp] theorem afterAck_responses (p : PortEvent) (s : State) : (afterAck p s).responses = s.responses := rfl
@[simp] theorem afterAck_trace (p : PortEvent) (s : State) : (afterAck p s).trace = ⟨p, ackAnswer (nextAck s)⟩ :: s.trace := rfl
@[simp] theorem afterAck_frees (p : PortEvent) (s : State) : (afterAck p s).frees = s.frees + 1 := rfl

@[simp] theorem afterCount_record (l : List Byte) (s : State) : (afterCount l s).record = s.record := rfl
@[simp] theorem afterCount_pid (l : List Byte) (s : State) : (afterCount l s).pid = s.pid := rfl
@[simp] theorem afterCount_pollInterval (l : List Byte) (s : State) : (afterCount l s).pollInterval = s.pollInterval := rfl
@[simp] theorem afterCount_mA (l : List Byte) (s : State) : (afterCount l s).mA = s.mA := rfl
@[simp] theorem afterCount_mB (l : List Byte) (s : State) : (afterCount l s).mB = s.mB := rfl
@[simp] theorem afterCount_txf (l : List Byte) (s : State) : (afterCount l s).txf = s.txf := rfl
@[simp] theorem afterCount_rxf (l : List Byte) (s : State) : (afterCount l s).rxf = s.rxf := rfl
@[simp] theorem afterCount_phase (l : List Byte) (s : State) : (afterCount l s).phase = s.phase := rfl
@[simp] theorem afterCount_tb (l : List Byte) (s : State) : (afterCount l s).tb = s.tb := rfl
@[simp] theorem afterCount_tp (l : List Byte) (s : State) : (afterCount l s).tp = s.tp := rfl
@[simp] theorem afterCount_staged (l : List Byte) (s : State) : (afterCount l s).staged = s.staged := rfl
@[simp] theorem afterCount_img (l : List Byte) (s : State) : (afterCount l s).img = s.img := rfl
@[simp] theorem afterCount_tlmCarry (l : List Byte) (s : State) : (afterCount l s).tlmCarry = s.tlmCarry := rfl
@[simp] theorem afterCount_scan (l : List Byte) (s : State) : (afterCount l s).scan = s.scan := rfl
@[simp] theorem afterCount_rxSegments (l : List Byte) (s : State) : (afterCount l s).rxSegments = s.rxSegments := rfl
@[simp] theorem afterCount_txSegments (l : List Byte) (s : State) : (afterCount l s).txSegments = s.txSegments := rfl
@[simp] theorem afterCount_floor (l : List Byte) (s : State) : (afterCount l s).floor = s.floor := rfl
@[simp] theorem afterCount_smp (l : List Byte) (s : State) : (afterCount l s).smp = s.smp := rfl
@[simp] theorem afterCount_seg (l : List Byte) (s : State) : (afterCount l s).seg = s.seg := rfl
@[simp] theorem afterCount_tail (l : List Byte) (s : State) : (afterCount l s).tail = s.tail := rfl
@[simp] theorem afterCount_diag (l : List Byte) (s : State) : (afterCount l s).diag = s.diag := rfl
@[simp] theorem afterCount_uartCfg (l : List Byte) (s : State) : (afterCount l s).uartCfg = s.uartCfg := rfl
@[simp] theorem afterCount_uartCfgKnown (l : List Byte) (s : State) : (afterCount l s).uartCfgKnown = s.uartCfgKnown := rfl
@[simp] theorem afterCount_uartRule (l : List Byte) (s : State) : (afterCount l s).uartRule = s.uartRule := rfl
@[simp] theorem afterCount_uartRuleKnown (l : List Byte) (s : State) : (afterCount l s).uartRuleKnown = s.uartRuleKnown := rfl
@[simp] theorem afterCount_lineA (l : List Byte) (s : State) : (afterCount l s).lineA = s.lineA := rfl
@[simp] theorem afterCount_lineB (l : List Byte) (s : State) : (afterCount l s).lineB = s.lineB := rfl
@[simp] theorem afterCount_hostCmds (l : List Byte) (s : State) : (afterCount l s).hostCmds = s.hostCmds := rfl
@[simp] theorem afterCount_busyIn (l : List Byte) (s : State) : (afterCount l s).busyIn = s.busyIn := rfl
@[simp] theorem afterCount_ackIn (l : List Byte) (s : State) : (afterCount l s).ackIn = s.ackIn := rfl
@[simp] theorem afterCount_countIn (l : List Byte) (s : State) : (afterCount l s).countIn = s.countIn.tail := rfl
@[simp] theorem afterCount_readIn (l : List Byte) (s : State) : (afterCount l s).readIn = s.readIn := rfl
@[simp] theorem afterCount_resetPin (l : List Byte) (s : State) : (afterCount l s).resetPin = s.resetPin := rfl
@[simp] theorem afterCount_responses (l : List Byte) (s : State) : (afterCount l s).responses = s.responses := rfl
@[simp] theorem afterCount_trace (l : List Byte) (s : State) : (afterCount l s).trace = ⟨.uWr l, countAnswer (nextCount s)⟩ :: s.trace := rfl
@[simp] theorem afterCount_frees (l : List Byte) (s : State) : (afterCount l s).frees = s.frees + 1 := rfl

@[simp] theorem afterRead_record (k : Nat) (s : State) : (afterRead k s).record = s.record := rfl
@[simp] theorem afterRead_pid (k : Nat) (s : State) : (afterRead k s).pid = s.pid := rfl
@[simp] theorem afterRead_pollInterval (k : Nat) (s : State) : (afterRead k s).pollInterval = s.pollInterval := rfl
@[simp] theorem afterRead_mA (k : Nat) (s : State) : (afterRead k s).mA = s.mA := rfl
@[simp] theorem afterRead_mB (k : Nat) (s : State) : (afterRead k s).mB = s.mB := rfl
@[simp] theorem afterRead_txf (k : Nat) (s : State) : (afterRead k s).txf = s.txf := rfl
@[simp] theorem afterRead_rxf (k : Nat) (s : State) : (afterRead k s).rxf = s.rxf := rfl
@[simp] theorem afterRead_phase (k : Nat) (s : State) : (afterRead k s).phase = s.phase := rfl
@[simp] theorem afterRead_tb (k : Nat) (s : State) : (afterRead k s).tb = s.tb := rfl
@[simp] theorem afterRead_tp (k : Nat) (s : State) : (afterRead k s).tp = s.tp := rfl
@[simp] theorem afterRead_staged (k : Nat) (s : State) : (afterRead k s).staged = s.staged := rfl
@[simp] theorem afterRead_img (k : Nat) (s : State) : (afterRead k s).img = s.img := rfl
@[simp] theorem afterRead_tlmCarry (k : Nat) (s : State) : (afterRead k s).tlmCarry = s.tlmCarry := rfl
@[simp] theorem afterRead_scan (k : Nat) (s : State) : (afterRead k s).scan = s.scan := rfl
@[simp] theorem afterRead_rxSegments (k : Nat) (s : State) : (afterRead k s).rxSegments = s.rxSegments := rfl
@[simp] theorem afterRead_txSegments (k : Nat) (s : State) : (afterRead k s).txSegments = s.txSegments := rfl
@[simp] theorem afterRead_floor (k : Nat) (s : State) : (afterRead k s).floor = s.floor := rfl
@[simp] theorem afterRead_smp (k : Nat) (s : State) : (afterRead k s).smp = s.smp := rfl
@[simp] theorem afterRead_seg (k : Nat) (s : State) : (afterRead k s).seg = s.seg := rfl
@[simp] theorem afterRead_tail (k : Nat) (s : State) : (afterRead k s).tail = s.tail := rfl
@[simp] theorem afterRead_diag (k : Nat) (s : State) : (afterRead k s).diag = s.diag := rfl
@[simp] theorem afterRead_uartCfg (k : Nat) (s : State) : (afterRead k s).uartCfg = s.uartCfg := rfl
@[simp] theorem afterRead_uartCfgKnown (k : Nat) (s : State) : (afterRead k s).uartCfgKnown = s.uartCfgKnown := rfl
@[simp] theorem afterRead_uartRule (k : Nat) (s : State) : (afterRead k s).uartRule = s.uartRule := rfl
@[simp] theorem afterRead_uartRuleKnown (k : Nat) (s : State) : (afterRead k s).uartRuleKnown = s.uartRuleKnown := rfl
@[simp] theorem afterRead_lineA (k : Nat) (s : State) : (afterRead k s).lineA = s.lineA := rfl
@[simp] theorem afterRead_lineB (k : Nat) (s : State) : (afterRead k s).lineB = s.lineB := rfl
@[simp] theorem afterRead_hostCmds (k : Nat) (s : State) : (afterRead k s).hostCmds = s.hostCmds := rfl
@[simp] theorem afterRead_busyIn (k : Nat) (s : State) : (afterRead k s).busyIn = s.busyIn := rfl
@[simp] theorem afterRead_ackIn (k : Nat) (s : State) : (afterRead k s).ackIn = s.ackIn := rfl
@[simp] theorem afterRead_countIn (k : Nat) (s : State) : (afterRead k s).countIn = s.countIn := rfl
@[simp] theorem afterRead_readIn (k : Nat) (s : State) : (afterRead k s).readIn = s.readIn.tail := rfl
@[simp] theorem afterRead_resetPin (k : Nat) (s : State) : (afterRead k s).resetPin = s.resetPin := rfl
@[simp] theorem afterRead_responses (k : Nat) (s : State) : (afterRead k s).responses = s.responses := rfl
@[simp] theorem afterRead_trace (k : Nat) (s : State) : (afterRead k s).trace = ⟨.uRd k, readAnswer (nextRead s)⟩ :: s.trace := rfl
@[simp] theorem afterRead_frees (k : Nat) (s : State) : (afterRead k s).frees = s.frees + 1 := rfl

@[simp] theorem takePacket_record (s : State) : (takePacket s).record = s.record := rfl
@[simp] theorem takePacket_pid (s : State) : (takePacket s).pid = s.pid := rfl
@[simp] theorem takePacket_pollInterval (s : State) : (takePacket s).pollInterval = s.pollInterval := rfl
@[simp] theorem takePacket_mA (s : State) : (takePacket s).mA = s.mA := rfl
@[simp] theorem takePacket_mB (s : State) : (takePacket s).mB = s.mB := rfl
@[simp] theorem takePacket_txf (s : State) : (takePacket s).txf = s.txf := rfl
@[simp] theorem takePacket_rxf (s : State) : (takePacket s).rxf = s.rxf := rfl
@[simp] theorem takePacket_phase (s : State) : (takePacket s).phase = s.phase := rfl
@[simp] theorem takePacket_tb (s : State) : (takePacket s).tb = s.tb := rfl
@[simp] theorem takePacket_tp (s : State) : (takePacket s).tp = s.tp := rfl
@[simp] theorem takePacket_staged (s : State) : (takePacket s).staged = s.staged := rfl
@[simp] theorem takePacket_img (s : State) : (takePacket s).img = s.img := rfl
@[simp] theorem takePacket_tlmCarry (s : State) : (takePacket s).tlmCarry = s.tlmCarry := rfl
@[simp] theorem takePacket_scan (s : State) : (takePacket s).scan = s.scan := rfl
@[simp] theorem takePacket_rxSegments (s : State) : (takePacket s).rxSegments = s.rxSegments := rfl
@[simp] theorem takePacket_txSegments (s : State) : (takePacket s).txSegments = s.txSegments := rfl
@[simp] theorem takePacket_floor (s : State) : (takePacket s).floor = s.floor := rfl
@[simp] theorem takePacket_smp (s : State) : (takePacket s).smp = s.smp := rfl
@[simp] theorem takePacket_seg (s : State) : (takePacket s).seg = s.seg := rfl
@[simp] theorem takePacket_tail (s : State) : (takePacket s).tail = s.tail := rfl
@[simp] theorem takePacket_diag (s : State) : (takePacket s).diag = s.diag := rfl
@[simp] theorem takePacket_uartCfg (s : State) : (takePacket s).uartCfg = s.uartCfg := rfl
@[simp] theorem takePacket_uartCfgKnown (s : State) : (takePacket s).uartCfgKnown = s.uartCfgKnown := rfl
@[simp] theorem takePacket_uartRule (s : State) : (takePacket s).uartRule = s.uartRule := rfl
@[simp] theorem takePacket_uartRuleKnown (s : State) : (takePacket s).uartRuleKnown = s.uartRuleKnown := rfl
@[simp] theorem takePacket_lineA (s : State) : (takePacket s).lineA = s.lineA := rfl
@[simp] theorem takePacket_lineB (s : State) : (takePacket s).lineB = s.lineB := rfl
@[simp] theorem takePacket_hostCmds (s : State) : (takePacket s).hostCmds = s.hostCmds.tail := rfl
@[simp] theorem takePacket_busyIn (s : State) : (takePacket s).busyIn = s.busyIn := rfl
@[simp] theorem takePacket_ackIn (s : State) : (takePacket s).ackIn = s.ackIn := rfl
@[simp] theorem takePacket_countIn (s : State) : (takePacket s).countIn = s.countIn := rfl
@[simp] theorem takePacket_readIn (s : State) : (takePacket s).readIn = s.readIn := rfl
@[simp] theorem takePacket_resetPin (s : State) : (takePacket s).resetPin = s.resetPin := rfl
@[simp] theorem takePacket_responses (s : State) : (takePacket s).responses = s.responses := rfl
@[simp] theorem takePacket_trace (s : State) : (takePacket s).trace = s.trace := rfl
@[simp] theorem takePacket_frees (s : State) : (takePacket s).frees = s.frees := rfl

@[simp] theorem sampleReset_record (s : State) : (sampleReset s).record = s.record := rfl
@[simp] theorem sampleReset_pid (s : State) : (sampleReset s).pid = s.pid := rfl
@[simp] theorem sampleReset_pollInterval (s : State) : (sampleReset s).pollInterval = s.pollInterval := rfl
@[simp] theorem sampleReset_mA (s : State) : (sampleReset s).mA = s.mA := rfl
@[simp] theorem sampleReset_mB (s : State) : (sampleReset s).mB = s.mB := rfl
@[simp] theorem sampleReset_txf (s : State) : (sampleReset s).txf = s.txf := rfl
@[simp] theorem sampleReset_rxf (s : State) : (sampleReset s).rxf = s.rxf := rfl
@[simp] theorem sampleReset_phase (s : State) : (sampleReset s).phase = s.phase := rfl
@[simp] theorem sampleReset_tb (s : State) : (sampleReset s).tb = s.tb := rfl
@[simp] theorem sampleReset_tp (s : State) : (sampleReset s).tp = s.tp := rfl
@[simp] theorem sampleReset_staged (s : State) : (sampleReset s).staged = s.staged := rfl
@[simp] theorem sampleReset_img (s : State) : (sampleReset s).img = s.img := rfl
@[simp] theorem sampleReset_tlmCarry (s : State) : (sampleReset s).tlmCarry = s.tlmCarry := rfl
@[simp] theorem sampleReset_scan (s : State) : (sampleReset s).scan = s.scan := rfl
@[simp] theorem sampleReset_rxSegments (s : State) : (sampleReset s).rxSegments = s.rxSegments := rfl
@[simp] theorem sampleReset_txSegments (s : State) : (sampleReset s).txSegments = s.txSegments := rfl
@[simp] theorem sampleReset_floor (s : State) : (sampleReset s).floor = s.floor := rfl
@[simp] theorem sampleReset_smp (s : State) : (sampleReset s).smp = s.smp := rfl
@[simp] theorem sampleReset_seg (s : State) : (sampleReset s).seg = s.seg := rfl
@[simp] theorem sampleReset_tail (s : State) : (sampleReset s).tail = s.tail := rfl
@[simp] theorem sampleReset_diag (s : State) : (sampleReset s).diag = s.diag := rfl
@[simp] theorem sampleReset_uartCfg (s : State) : (sampleReset s).uartCfg = s.uartCfg := rfl
@[simp] theorem sampleReset_uartCfgKnown (s : State) : (sampleReset s).uartCfgKnown = s.uartCfgKnown := rfl
@[simp] theorem sampleReset_uartRule (s : State) : (sampleReset s).uartRule = s.uartRule := rfl
@[simp] theorem sampleReset_uartRuleKnown (s : State) : (sampleReset s).uartRuleKnown = s.uartRuleKnown := rfl
@[simp] theorem sampleReset_lineA (s : State) : (sampleReset s).lineA = s.lineA := rfl
@[simp] theorem sampleReset_lineB (s : State) : (sampleReset s).lineB = s.lineB := rfl
@[simp] theorem sampleReset_hostCmds (s : State) : (sampleReset s).hostCmds = s.hostCmds := rfl
@[simp] theorem sampleReset_busyIn (s : State) : (sampleReset s).busyIn = s.busyIn := rfl
@[simp] theorem sampleReset_ackIn (s : State) : (sampleReset s).ackIn = s.ackIn := rfl
@[simp] theorem sampleReset_countIn (s : State) : (sampleReset s).countIn = s.countIn := rfl
@[simp] theorem sampleReset_readIn (s : State) : (sampleReset s).readIn = s.readIn := rfl
@[simp] theorem sampleReset_resetPin (s : State) : (sampleReset s).resetPin = s.resetPin.tail := rfl
@[simp] theorem sampleReset_responses (s : State) : (sampleReset s).responses = s.responses := rfl
@[simp] theorem sampleReset_trace (s : State) : (sampleReset s).trace = s.trace := rfl
@[simp] theorem sampleReset_frees (s : State) : (sampleReset s).frees = s.frees := rfl

@[simp] theorem resetBlock_record (s : State) : (resetBlock s).record = State.reset.record := rfl
@[simp] theorem resetBlock_pid (s : State) : (resetBlock s).pid = State.reset.pid := rfl
@[simp] theorem resetBlock_pollInterval (s : State) : (resetBlock s).pollInterval = State.reset.pollInterval := rfl
@[simp] theorem resetBlock_mA (s : State) : (resetBlock s).mA = State.reset.mA := rfl
@[simp] theorem resetBlock_mB (s : State) : (resetBlock s).mB = State.reset.mB := rfl
@[simp] theorem resetBlock_txf (s : State) : (resetBlock s).txf = State.reset.txf := rfl
@[simp] theorem resetBlock_rxf (s : State) : (resetBlock s).rxf = State.reset.rxf := rfl
@[simp] theorem resetBlock_phase (s : State) : (resetBlock s).phase = State.reset.phase := rfl
@[simp] theorem resetBlock_tb (s : State) : (resetBlock s).tb = State.reset.tb := rfl
@[simp] theorem resetBlock_tp (s : State) : (resetBlock s).tp = State.reset.tp := rfl
@[simp] theorem resetBlock_staged (s : State) : (resetBlock s).staged = State.reset.staged := rfl
@[simp] theorem resetBlock_img (s : State) : (resetBlock s).img = State.reset.img := rfl
@[simp] theorem resetBlock_tlmCarry (s : State) : (resetBlock s).tlmCarry = State.reset.tlmCarry := rfl
@[simp] theorem resetBlock_scan (s : State) : (resetBlock s).scan = State.reset.scan := rfl
@[simp] theorem resetBlock_rxSegments (s : State) : (resetBlock s).rxSegments = State.reset.rxSegments := rfl
@[simp] theorem resetBlock_txSegments (s : State) : (resetBlock s).txSegments = State.reset.txSegments := rfl
@[simp] theorem resetBlock_floor (s : State) : (resetBlock s).floor = State.reset.floor := rfl
@[simp] theorem resetBlock_smp (s : State) : (resetBlock s).smp = State.reset.smp := rfl
@[simp] theorem resetBlock_seg (s : State) : (resetBlock s).seg = State.reset.seg := rfl
@[simp] theorem resetBlock_tail (s : State) : (resetBlock s).tail = State.reset.tail := rfl
@[simp] theorem resetBlock_diag (s : State) : (resetBlock s).diag = State.reset.diag := rfl
@[simp] theorem resetBlock_uartCfg (s : State) : (resetBlock s).uartCfg = State.reset.uartCfg := rfl
@[simp] theorem resetBlock_uartCfgKnown (s : State) : (resetBlock s).uartCfgKnown = State.reset.uartCfgKnown := rfl
@[simp] theorem resetBlock_uartRule (s : State) : (resetBlock s).uartRule = State.reset.uartRule := rfl
@[simp] theorem resetBlock_uartRuleKnown (s : State) : (resetBlock s).uartRuleKnown = State.reset.uartRuleKnown := rfl
@[simp] theorem resetBlock_lineA (s : State) : (resetBlock s).lineA = State.reset.lineA := rfl
@[simp] theorem resetBlock_lineB (s : State) : (resetBlock s).lineB = State.reset.lineB := rfl
@[simp] theorem resetBlock_hostCmds (s : State) : (resetBlock s).hostCmds = s.hostCmds := rfl
@[simp] theorem resetBlock_busyIn (s : State) : (resetBlock s).busyIn = s.busyIn := rfl
@[simp] theorem resetBlock_ackIn (s : State) : (resetBlock s).ackIn = s.ackIn := rfl
@[simp] theorem resetBlock_countIn (s : State) : (resetBlock s).countIn = s.countIn := rfl
@[simp] theorem resetBlock_readIn (s : State) : (resetBlock s).readIn = s.readIn := rfl
@[simp] theorem resetBlock_resetPin (s : State) : (resetBlock s).resetPin = s.resetPin := rfl
@[simp] theorem resetBlock_responses (s : State) : (resetBlock s).responses = s.responses := rfl
@[simp] theorem resetBlock_trace (s : State) : (resetBlock s).trace = s.trace := rfl
@[simp] theorem resetBlock_frees (s : State) : (resetBlock s).frees = s.frees := rfl

@[simp] theorem setLine_record (l : Line) (v : Bool) (s : State) : (setLine l v s).record = s.record := by cases l <;> rfl
@[simp] theorem setLine_pid (l : Line) (v : Bool) (s : State) : (setLine l v s).pid = s.pid := by cases l <;> rfl
@[simp] theorem setLine_pollInterval (l : Line) (v : Bool) (s : State) : (setLine l v s).pollInterval = s.pollInterval := by cases l <;> rfl
@[simp] theorem setLine_txf (l : Line) (v : Bool) (s : State) : (setLine l v s).txf = s.txf := by cases l <;> rfl
@[simp] theorem setLine_rxf (l : Line) (v : Bool) (s : State) : (setLine l v s).rxf = s.rxf := by cases l <;> rfl
@[simp] theorem setLine_phase (l : Line) (v : Bool) (s : State) : (setLine l v s).phase = s.phase := by cases l <;> rfl
@[simp] theorem setLine_tb (l : Line) (v : Bool) (s : State) : (setLine l v s).tb = s.tb := by cases l <;> rfl
@[simp] theorem setLine_tp (l : Line) (v : Bool) (s : State) : (setLine l v s).tp = s.tp := by cases l <;> rfl
@[simp] theorem setLine_staged (l : Line) (v : Bool) (s : State) : (setLine l v s).staged = s.staged := by cases l <;> rfl
@[simp] theorem setLine_img (l : Line) (v : Bool) (s : State) : (setLine l v s).img = s.img := by cases l <;> rfl
@[simp] theorem setLine_tlmCarry (l : Line) (v : Bool) (s : State) : (setLine l v s).tlmCarry = s.tlmCarry := by cases l <;> rfl
@[simp] theorem setLine_scan (l : Line) (v : Bool) (s : State) : (setLine l v s).scan = s.scan := by cases l <;> rfl
@[simp] theorem setLine_rxSegments (l : Line) (v : Bool) (s : State) : (setLine l v s).rxSegments = s.rxSegments := by cases l <;> rfl
@[simp] theorem setLine_txSegments (l : Line) (v : Bool) (s : State) : (setLine l v s).txSegments = s.txSegments := by cases l <;> rfl
@[simp] theorem setLine_floor (l : Line) (v : Bool) (s : State) : (setLine l v s).floor = s.floor := by cases l <;> rfl
@[simp] theorem setLine_smp (l : Line) (v : Bool) (s : State) : (setLine l v s).smp = s.smp := by cases l <;> rfl
@[simp] theorem setLine_seg (l : Line) (v : Bool) (s : State) : (setLine l v s).seg = s.seg := by cases l <;> rfl
@[simp] theorem setLine_tail (l : Line) (v : Bool) (s : State) : (setLine l v s).tail = s.tail := by cases l <;> rfl
@[simp] theorem setLine_diag (l : Line) (v : Bool) (s : State) : (setLine l v s).diag = s.diag := by cases l <;> rfl
@[simp] theorem setLine_uartCfg (l : Line) (v : Bool) (s : State) : (setLine l v s).uartCfg = s.uartCfg := by cases l <;> rfl
@[simp] theorem setLine_uartCfgKnown (l : Line) (v : Bool) (s : State) : (setLine l v s).uartCfgKnown = s.uartCfgKnown := by cases l <;> rfl
@[simp] theorem setLine_uartRule (l : Line) (v : Bool) (s : State) : (setLine l v s).uartRule = s.uartRule := by cases l <;> rfl
@[simp] theorem setLine_uartRuleKnown (l : Line) (v : Bool) (s : State) : (setLine l v s).uartRuleKnown = s.uartRuleKnown := by cases l <;> rfl
@[simp] theorem setLine_hostCmds (l : Line) (v : Bool) (s : State) : (setLine l v s).hostCmds = s.hostCmds := by cases l <;> rfl
@[simp] theorem setLine_busyIn (l : Line) (v : Bool) (s : State) : (setLine l v s).busyIn = s.busyIn := by cases l <;> rfl
@[simp] theorem setLine_ackIn (l : Line) (v : Bool) (s : State) : (setLine l v s).ackIn = s.ackIn := by cases l <;> rfl
@[simp] theorem setLine_countIn (l : Line) (v : Bool) (s : State) : (setLine l v s).countIn = s.countIn := by cases l <;> rfl
@[simp] theorem setLine_readIn (l : Line) (v : Bool) (s : State) : (setLine l v s).readIn = s.readIn := by cases l <;> rfl
@[simp] theorem setLine_resetPin (l : Line) (v : Bool) (s : State) : (setLine l v s).resetPin = s.resetPin := by cases l <;> rfl
@[simp] theorem setLine_responses (l : Line) (v : Bool) (s : State) : (setLine l v s).responses = s.responses := by cases l <;> rfl
@[simp] theorem setLine_trace (l : Line) (v : Bool) (s : State) : (setLine l v s).trace = s.trace := by cases l <;> rfl
@[simp] theorem setLine_frees (l : Line) (v : Bool) (s : State) : (setLine l v s).frees = s.frees := by cases l <;> rfl
@[simp] theorem loseLine_record (l : Line) (s : State) : (loseLine l s).record = s.record := by cases l <;> rfl
@[simp] theorem loseLine_pid (l : Line) (s : State) : (loseLine l s).pid = s.pid := by cases l <;> rfl
@[simp] theorem loseLine_pollInterval (l : Line) (s : State) : (loseLine l s).pollInterval = s.pollInterval := by cases l <;> rfl
@[simp] theorem loseLine_mA (l : Line) (s : State) : (loseLine l s).mA = s.mA := by cases l <;> rfl
@[simp] theorem loseLine_mB (l : Line) (s : State) : (loseLine l s).mB = s.mB := by cases l <;> rfl
@[simp] theorem loseLine_txf (l : Line) (s : State) : (loseLine l s).txf = s.txf := by cases l <;> rfl
@[simp] theorem loseLine_rxf (l : Line) (s : State) : (loseLine l s).rxf = s.rxf := by cases l <;> rfl
@[simp] theorem loseLine_phase (l : Line) (s : State) : (loseLine l s).phase = s.phase := by cases l <;> rfl
@[simp] theorem loseLine_tb (l : Line) (s : State) : (loseLine l s).tb = s.tb := by cases l <;> rfl
@[simp] theorem loseLine_tp (l : Line) (s : State) : (loseLine l s).tp = s.tp := by cases l <;> rfl
@[simp] theorem loseLine_staged (l : Line) (s : State) : (loseLine l s).staged = s.staged := by cases l <;> rfl
@[simp] theorem loseLine_img (l : Line) (s : State) : (loseLine l s).img = s.img := by cases l <;> rfl
@[simp] theorem loseLine_tlmCarry (l : Line) (s : State) : (loseLine l s).tlmCarry = s.tlmCarry := by cases l <;> rfl
@[simp] theorem loseLine_scan (l : Line) (s : State) : (loseLine l s).scan = s.scan := by cases l <;> rfl
@[simp] theorem loseLine_rxSegments (l : Line) (s : State) : (loseLine l s).rxSegments = s.rxSegments := by cases l <;> rfl
@[simp] theorem loseLine_txSegments (l : Line) (s : State) : (loseLine l s).txSegments = s.txSegments := by cases l <;> rfl
@[simp] theorem loseLine_floor (l : Line) (s : State) : (loseLine l s).floor = s.floor := by cases l <;> rfl
@[simp] theorem loseLine_smp (l : Line) (s : State) : (loseLine l s).smp = s.smp := by cases l <;> rfl
@[simp] theorem loseLine_seg (l : Line) (s : State) : (loseLine l s).seg = s.seg := by cases l <;> rfl
@[simp] theorem loseLine_tail (l : Line) (s : State) : (loseLine l s).tail = s.tail := by cases l <;> rfl
@[simp] theorem loseLine_diag (l : Line) (s : State) : (loseLine l s).diag = s.diag := by cases l <;> rfl
@[simp] theorem loseLine_uartCfg (l : Line) (s : State) : (loseLine l s).uartCfg = s.uartCfg := by cases l <;> rfl
@[simp] theorem loseLine_uartCfgKnown (l : Line) (s : State) : (loseLine l s).uartCfgKnown = s.uartCfgKnown := by cases l <;> rfl
@[simp] theorem loseLine_uartRule (l : Line) (s : State) : (loseLine l s).uartRule = s.uartRule := by cases l <;> rfl
@[simp] theorem loseLine_uartRuleKnown (l : Line) (s : State) : (loseLine l s).uartRuleKnown = s.uartRuleKnown := by cases l <;> rfl
@[simp] theorem loseLine_hostCmds (l : Line) (s : State) : (loseLine l s).hostCmds = s.hostCmds := by cases l <;> rfl
@[simp] theorem loseLine_busyIn (l : Line) (s : State) : (loseLine l s).busyIn = s.busyIn := by cases l <;> rfl
@[simp] theorem loseLine_ackIn (l : Line) (s : State) : (loseLine l s).ackIn = s.ackIn := by cases l <;> rfl
@[simp] theorem loseLine_countIn (l : Line) (s : State) : (loseLine l s).countIn = s.countIn := by cases l <;> rfl
@[simp] theorem loseLine_readIn (l : Line) (s : State) : (loseLine l s).readIn = s.readIn := by cases l <;> rfl
@[simp] theorem loseLine_resetPin (l : Line) (s : State) : (loseLine l s).resetPin = s.resetPin := by cases l <;> rfl
@[simp] theorem loseLine_responses (l : Line) (s : State) : (loseLine l s).responses = s.responses := by cases l <;> rfl
@[simp] theorem loseLine_trace (l : Line) (s : State) : (loseLine l s).trace = s.trace := by cases l <;> rfl
@[simp] theorem loseLine_frees (l : Line) (s : State) : (loseLine l s).frees = s.frees := by cases l <;> rfl
@[simp] theorem setLine_a_mA (v : Bool) (s : State) : (setLine .a v s).mA = v := rfl
@[simp] theorem setLine_a_mB (v : Bool) (s : State) : (setLine .a v s).mB = s.mB := rfl
@[simp] theorem setLine_a_lineA (v : Bool) (s : State) : (setLine .a v s).lineA = some v := rfl
@[simp] theorem setLine_a_lineB (v : Bool) (s : State) : (setLine .a v s).lineB = s.lineB := rfl
@[simp] theorem loseLine_a_lineA (s : State) : (loseLine .a s).lineA = none := rfl
@[simp] theorem loseLine_a_lineB (s : State) : (loseLine .a s).lineB = s.lineB := rfl
@[simp] theorem setLine_b_mB (v : Bool) (s : State) : (setLine .b v s).mB = v := rfl
@[simp] theorem setLine_b_mA (v : Bool) (s : State) : (setLine .b v s).mA = s.mA := rfl
@[simp] theorem setLine_b_lineB (v : Bool) (s : State) : (setLine .b v s).lineB = some v := rfl
@[simp] theorem setLine_b_lineA (v : Bool) (s : State) : (setLine .b v s).lineA = s.lineA := rfl
@[simp] theorem loseLine_b_lineB (s : State) : (loseLine .b s).lineB = none := rfl
@[simp] theorem loseLine_b_lineA (s : State) : (loseLine .b s).lineA = s.lineA := rfl

@[simp] theorem setUartCfg_record (b : BitVec 3) (p : BitVec 2) (s : State) : (setUartCfg b p s).record = s.record := rfl
@[simp] theorem setUartCfg_pid (b : BitVec 3) (p : BitVec 2) (s : State) : (setUartCfg b p s).pid = s.pid := rfl
@[simp] theorem setUartCfg_pollInterval (b : BitVec 3) (p : BitVec 2) (s : State) : (setUartCfg b p s).pollInterval = s.pollInterval := rfl
@[simp] theorem setUartCfg_mA (b : BitVec 3) (p : BitVec 2) (s : State) : (setUartCfg b p s).mA = s.mA := rfl
@[simp] theorem setUartCfg_mB (b : BitVec 3) (p : BitVec 2) (s : State) : (setUartCfg b p s).mB = s.mB := rfl
@[simp] theorem setUartCfg_txf (b : BitVec 3) (p : BitVec 2) (s : State) : (setUartCfg b p s).txf = s.txf := rfl
@[simp] theorem setUartCfg_rxf (b : BitVec 3) (p : BitVec 2) (s : State) : (setUartCfg b p s).rxf = s.rxf := rfl
@[simp] theorem setUartCfg_phase (b : BitVec 3) (p : BitVec 2) (s : State) : (setUartCfg b p s).phase = s.phase := rfl
@[simp] theorem setUartCfg_tb (b : BitVec 3) (p : BitVec 2) (s : State) : (setUartCfg b p s).tb = s.tb := rfl
@[simp] theorem setUartCfg_tp (b : BitVec 3) (p : BitVec 2) (s : State) : (setUartCfg b p s).tp = s.tp := rfl
@[simp] theorem setUartCfg_staged (b : BitVec 3) (p : BitVec 2) (s : State) : (setUartCfg b p s).staged = s.staged := rfl
@[simp] theorem setUartCfg_img (b : BitVec 3) (p : BitVec 2) (s : State) : (setUartCfg b p s).img = s.img := rfl
@[simp] theorem setUartCfg_scan (b : BitVec 3) (p : BitVec 2) (s : State) : (setUartCfg b p s).scan = s.scan := rfl
@[simp] theorem setUartCfg_tlmCarry (b : BitVec 3) (p : BitVec 2) (s : State) : (setUartCfg b p s).tlmCarry = s.tlmCarry := rfl
@[simp] theorem setUartCfg_rxSegments (b : BitVec 3) (p : BitVec 2) (s : State) : (setUartCfg b p s).rxSegments = s.rxSegments := rfl
@[simp] theorem setUartCfg_txSegments (b : BitVec 3) (p : BitVec 2) (s : State) : (setUartCfg b p s).txSegments = s.txSegments := rfl
@[simp] theorem setUartCfg_floor (b : BitVec 3) (p : BitVec 2) (s : State) : (setUartCfg b p s).floor = s.floor := rfl
@[simp] theorem setUartCfg_smp (b : BitVec 3) (p : BitVec 2) (s : State) : (setUartCfg b p s).smp = s.smp := rfl
@[simp] theorem setUartCfg_seg (b : BitVec 3) (p : BitVec 2) (s : State) : (setUartCfg b p s).seg = s.seg := rfl
@[simp] theorem setUartCfg_tail (b : BitVec 3) (p : BitVec 2) (s : State) : (setUartCfg b p s).tail = s.tail := rfl
@[simp] theorem setUartCfg_diag (b : BitVec 3) (p : BitVec 2) (s : State) : (setUartCfg b p s).diag = s.diag := rfl
@[simp] theorem setUartCfg_uartCfg (b : BitVec 3) (p : BitVec 2) (s : State) : (setUartCfg b p s).uartCfg = some (b, p) := rfl
@[simp] theorem setUartCfg_uartCfgKnown (b : BitVec 3) (p : BitVec 2) (s : State) : (setUartCfg b p s).uartCfgKnown = true := rfl
@[simp] theorem setUartCfg_uartRule (b : BitVec 3) (p : BitVec 2) (s : State) : (setUartCfg b p s).uartRule = s.uartRule := rfl
@[simp] theorem setUartCfg_uartRuleKnown (b : BitVec 3) (p : BitVec 2) (s : State) : (setUartCfg b p s).uartRuleKnown = s.uartRuleKnown := rfl
@[simp] theorem setUartCfg_lineA (b : BitVec 3) (p : BitVec 2) (s : State) : (setUartCfg b p s).lineA = s.lineA := rfl
@[simp] theorem setUartCfg_lineB (b : BitVec 3) (p : BitVec 2) (s : State) : (setUartCfg b p s).lineB = s.lineB := rfl
@[simp] theorem setUartCfg_hostCmds (b : BitVec 3) (p : BitVec 2) (s : State) : (setUartCfg b p s).hostCmds = s.hostCmds := rfl
@[simp] theorem setUartCfg_busyIn (b : BitVec 3) (p : BitVec 2) (s : State) : (setUartCfg b p s).busyIn = s.busyIn := rfl
@[simp] theorem setUartCfg_ackIn (b : BitVec 3) (p : BitVec 2) (s : State) : (setUartCfg b p s).ackIn = s.ackIn := rfl
@[simp] theorem setUartCfg_countIn (b : BitVec 3) (p : BitVec 2) (s : State) : (setUartCfg b p s).countIn = s.countIn := rfl
@[simp] theorem setUartCfg_readIn (b : BitVec 3) (p : BitVec 2) (s : State) : (setUartCfg b p s).readIn = s.readIn := rfl
@[simp] theorem setUartCfg_resetPin (b : BitVec 3) (p : BitVec 2) (s : State) : (setUartCfg b p s).resetPin = s.resetPin := rfl
@[simp] theorem setUartCfg_responses (b : BitVec 3) (p : BitVec 2) (s : State) : (setUartCfg b p s).responses = s.responses := rfl
@[simp] theorem setUartCfg_trace (b : BitVec 3) (p : BitVec 2) (s : State) : (setUartCfg b p s).trace = s.trace := rfl
@[simp] theorem setUartCfg_frees (b : BitVec 3) (p : BitVec 2) (s : State) : (setUartCfg b p s).frees = s.frees := rfl

@[simp] theorem loseUartCfg_record (s : State) : (loseUartCfg s).record = s.record := rfl
@[simp] theorem loseUartCfg_pid (s : State) : (loseUartCfg s).pid = s.pid := rfl
@[simp] theorem loseUartCfg_pollInterval (s : State) : (loseUartCfg s).pollInterval = s.pollInterval := rfl
@[simp] theorem loseUartCfg_mA (s : State) : (loseUartCfg s).mA = s.mA := rfl
@[simp] theorem loseUartCfg_mB (s : State) : (loseUartCfg s).mB = s.mB := rfl
@[simp] theorem loseUartCfg_txf (s : State) : (loseUartCfg s).txf = s.txf := rfl
@[simp] theorem loseUartCfg_rxf (s : State) : (loseUartCfg s).rxf = s.rxf := rfl
@[simp] theorem loseUartCfg_phase (s : State) : (loseUartCfg s).phase = s.phase := rfl
@[simp] theorem loseUartCfg_tb (s : State) : (loseUartCfg s).tb = s.tb := rfl
@[simp] theorem loseUartCfg_tp (s : State) : (loseUartCfg s).tp = s.tp := rfl
@[simp] theorem loseUartCfg_staged (s : State) : (loseUartCfg s).staged = s.staged := rfl
@[simp] theorem loseUartCfg_img (s : State) : (loseUartCfg s).img = s.img := rfl
@[simp] theorem loseUartCfg_scan (s : State) : (loseUartCfg s).scan = s.scan := rfl
@[simp] theorem loseUartCfg_tlmCarry (s : State) : (loseUartCfg s).tlmCarry = s.tlmCarry := rfl
@[simp] theorem loseUartCfg_rxSegments (s : State) : (loseUartCfg s).rxSegments = s.rxSegments := rfl
@[simp] theorem loseUartCfg_txSegments (s : State) : (loseUartCfg s).txSegments = s.txSegments := rfl
@[simp] theorem loseUartCfg_floor (s : State) : (loseUartCfg s).floor = s.floor := rfl
@[simp] theorem loseUartCfg_smp (s : State) : (loseUartCfg s).smp = s.smp := rfl
@[simp] theorem loseUartCfg_seg (s : State) : (loseUartCfg s).seg = s.seg := rfl
@[simp] theorem loseUartCfg_tail (s : State) : (loseUartCfg s).tail = s.tail := rfl
@[simp] theorem loseUartCfg_diag (s : State) : (loseUartCfg s).diag = s.diag := rfl
@[simp] theorem loseUartCfg_uartCfg (s : State) : (loseUartCfg s).uartCfg = s.uartCfg := rfl
@[simp] theorem loseUartCfg_uartCfgKnown (s : State) : (loseUartCfg s).uartCfgKnown = false := rfl
@[simp] theorem loseUartCfg_uartRule (s : State) : (loseUartCfg s).uartRule = s.uartRule := rfl
@[simp] theorem loseUartCfg_uartRuleKnown (s : State) : (loseUartCfg s).uartRuleKnown = s.uartRuleKnown := rfl
@[simp] theorem loseUartCfg_lineA (s : State) : (loseUartCfg s).lineA = s.lineA := rfl
@[simp] theorem loseUartCfg_lineB (s : State) : (loseUartCfg s).lineB = s.lineB := rfl
@[simp] theorem loseUartCfg_hostCmds (s : State) : (loseUartCfg s).hostCmds = s.hostCmds := rfl
@[simp] theorem loseUartCfg_busyIn (s : State) : (loseUartCfg s).busyIn = s.busyIn := rfl
@[simp] theorem loseUartCfg_ackIn (s : State) : (loseUartCfg s).ackIn = s.ackIn := rfl
@[simp] theorem loseUartCfg_countIn (s : State) : (loseUartCfg s).countIn = s.countIn := rfl
@[simp] theorem loseUartCfg_readIn (s : State) : (loseUartCfg s).readIn = s.readIn := rfl
@[simp] theorem loseUartCfg_resetPin (s : State) : (loseUartCfg s).resetPin = s.resetPin := rfl
@[simp] theorem loseUartCfg_responses (s : State) : (loseUartCfg s).responses = s.responses := rfl
@[simp] theorem loseUartCfg_trace (s : State) : (loseUartCfg s).trace = s.trace := rfl
@[simp] theorem loseUartCfg_frees (s : State) : (loseUartCfg s).frees = s.frees := rfl

@[simp] theorem setUartRule_record (m t : Nat) (s : State) : (setUartRule m t s).record = s.record := rfl
@[simp] theorem setUartRule_pid (m t : Nat) (s : State) : (setUartRule m t s).pid = s.pid := rfl
@[simp] theorem setUartRule_pollInterval (m t : Nat) (s : State) : (setUartRule m t s).pollInterval = s.pollInterval := rfl
@[simp] theorem setUartRule_mA (m t : Nat) (s : State) : (setUartRule m t s).mA = s.mA := rfl
@[simp] theorem setUartRule_mB (m t : Nat) (s : State) : (setUartRule m t s).mB = s.mB := rfl
@[simp] theorem setUartRule_txf (m t : Nat) (s : State) : (setUartRule m t s).txf = s.txf := rfl
@[simp] theorem setUartRule_rxf (m t : Nat) (s : State) : (setUartRule m t s).rxf = s.rxf := rfl
@[simp] theorem setUartRule_phase (m t : Nat) (s : State) : (setUartRule m t s).phase = s.phase := rfl
@[simp] theorem setUartRule_tb (m t : Nat) (s : State) : (setUartRule m t s).tb = s.tb := rfl
@[simp] theorem setUartRule_tp (m t : Nat) (s : State) : (setUartRule m t s).tp = s.tp := rfl
@[simp] theorem setUartRule_staged (m t : Nat) (s : State) : (setUartRule m t s).staged = s.staged := rfl
@[simp] theorem setUartRule_img (m t : Nat) (s : State) : (setUartRule m t s).img = s.img := rfl
@[simp] theorem setUartRule_scan (m t : Nat) (s : State) : (setUartRule m t s).scan = s.scan := rfl
@[simp] theorem setUartRule_tlmCarry (m t : Nat) (s : State) : (setUartRule m t s).tlmCarry = s.tlmCarry := rfl
@[simp] theorem setUartRule_rxSegments (m t : Nat) (s : State) : (setUartRule m t s).rxSegments = s.rxSegments := rfl
@[simp] theorem setUartRule_txSegments (m t : Nat) (s : State) : (setUartRule m t s).txSegments = s.txSegments := rfl
@[simp] theorem setUartRule_floor (m t : Nat) (s : State) : (setUartRule m t s).floor = s.floor := rfl
@[simp] theorem setUartRule_smp (m t : Nat) (s : State) : (setUartRule m t s).smp = s.smp := rfl
@[simp] theorem setUartRule_seg (m t : Nat) (s : State) : (setUartRule m t s).seg = s.seg := rfl
@[simp] theorem setUartRule_tail (m t : Nat) (s : State) : (setUartRule m t s).tail = s.tail := rfl
@[simp] theorem setUartRule_diag (m t : Nat) (s : State) : (setUartRule m t s).diag = s.diag := rfl
@[simp] theorem setUartRule_uartCfg (m t : Nat) (s : State) : (setUartRule m t s).uartCfg = s.uartCfg := rfl
@[simp] theorem setUartRule_uartCfgKnown (m t : Nat) (s : State) : (setUartRule m t s).uartCfgKnown = s.uartCfgKnown := rfl
@[simp] theorem setUartRule_uartRule (m t : Nat) (s : State) : (setUartRule m t s).uartRule = some (m, t) := rfl
@[simp] theorem setUartRule_uartRuleKnown (m t : Nat) (s : State) : (setUartRule m t s).uartRuleKnown = true := rfl
@[simp] theorem setUartRule_lineA (m t : Nat) (s : State) : (setUartRule m t s).lineA = s.lineA := rfl
@[simp] theorem setUartRule_lineB (m t : Nat) (s : State) : (setUartRule m t s).lineB = s.lineB := rfl
@[simp] theorem setUartRule_hostCmds (m t : Nat) (s : State) : (setUartRule m t s).hostCmds = s.hostCmds := rfl
@[simp] theorem setUartRule_busyIn (m t : Nat) (s : State) : (setUartRule m t s).busyIn = s.busyIn := rfl
@[simp] theorem setUartRule_ackIn (m t : Nat) (s : State) : (setUartRule m t s).ackIn = s.ackIn := rfl
@[simp] theorem setUartRule_countIn (m t : Nat) (s : State) : (setUartRule m t s).countIn = s.countIn := rfl
@[simp] theorem setUartRule_readIn (m t : Nat) (s : State) : (setUartRule m t s).readIn = s.readIn := rfl
@[simp] theorem setUartRule_resetPin (m t : Nat) (s : State) : (setUartRule m t s).resetPin = s.resetPin := rfl
@[simp] theorem setUartRule_responses (m t : Nat) (s : State) : (setUartRule m t s).responses = s.responses := rfl
@[simp] theorem setUartRule_trace (m t : Nat) (s : State) : (setUartRule m t s).trace = s.trace := rfl
@[simp] theorem setUartRule_frees (m t : Nat) (s : State) : (setUartRule m t s).frees = s.frees := rfl

@[simp] theorem loseUartRule_record (s : State) : (loseUartRule s).record = s.record := rfl
@[simp] theorem loseUartRule_pid (s : State) : (loseUartRule s).pid = s.pid := rfl
@[simp] theorem loseUartRule_pollInterval (s : State) : (loseUartRule s).pollInterval = s.pollInterval := rfl
@[simp] theorem loseUartRule_mA (s : State) : (loseUartRule s).mA = s.mA := rfl
@[simp] theorem loseUartRule_mB (s : State) : (loseUartRule s).mB = s.mB := rfl
@[simp] theorem loseUartRule_txf (s : State) : (loseUartRule s).txf = s.txf := rfl
@[simp] theorem loseUartRule_rxf (s : State) : (loseUartRule s).rxf = s.rxf := rfl
@[simp] theorem loseUartRule_phase (s : State) : (loseUartRule s).phase = s.phase := rfl
@[simp] theorem loseUartRule_tb (s : State) : (loseUartRule s).tb = s.tb := rfl
@[simp] theorem loseUartRule_tp (s : State) : (loseUartRule s).tp = s.tp := rfl
@[simp] theorem loseUartRule_staged (s : State) : (loseUartRule s).staged = s.staged := rfl
@[simp] theorem loseUartRule_img (s : State) : (loseUartRule s).img = s.img := rfl
@[simp] theorem loseUartRule_scan (s : State) : (loseUartRule s).scan = s.scan := rfl
@[simp] theorem loseUartRule_tlmCarry (s : State) : (loseUartRule s).tlmCarry = s.tlmCarry := rfl
@[simp] theorem loseUartRule_rxSegments (s : State) : (loseUartRule s).rxSegments = s.rxSegments := rfl
@[simp] theorem loseUartRule_txSegments (s : State) : (loseUartRule s).txSegments = s.txSegments := rfl
@[simp] theorem loseUartRule_floor (s : State) : (loseUartRule s).floor = s.floor := rfl
@[simp] theorem loseUartRule_smp (s : State) : (loseUartRule s).smp = s.smp := rfl
@[simp] theorem loseUartRule_seg (s : State) : (loseUartRule s).seg = s.seg := rfl
@[simp] theorem loseUartRule_tail (s : State) : (loseUartRule s).tail = s.tail := rfl
@[simp] theorem loseUartRule_diag (s : State) : (loseUartRule s).diag = s.diag := rfl
@[simp] theorem loseUartRule_uartCfg (s : State) : (loseUartRule s).uartCfg = s.uartCfg := rfl
@[simp] theorem loseUartRule_uartCfgKnown (s : State) : (loseUartRule s).uartCfgKnown = s.uartCfgKnown := rfl
@[simp] theorem loseUartRule_uartRule (s : State) : (loseUartRule s).uartRule = s.uartRule := rfl
@[simp] theorem loseUartRule_uartRuleKnown (s : State) : (loseUartRule s).uartRuleKnown = false := rfl
@[simp] theorem loseUartRule_lineA (s : State) : (loseUartRule s).lineA = s.lineA := rfl
@[simp] theorem loseUartRule_lineB (s : State) : (loseUartRule s).lineB = s.lineB := rfl
@[simp] theorem loseUartRule_hostCmds (s : State) : (loseUartRule s).hostCmds = s.hostCmds := rfl
@[simp] theorem loseUartRule_busyIn (s : State) : (loseUartRule s).busyIn = s.busyIn := rfl
@[simp] theorem loseUartRule_ackIn (s : State) : (loseUartRule s).ackIn = s.ackIn := rfl
@[simp] theorem loseUartRule_countIn (s : State) : (loseUartRule s).countIn = s.countIn := rfl
@[simp] theorem loseUartRule_readIn (s : State) : (loseUartRule s).readIn = s.readIn := rfl
@[simp] theorem loseUartRule_resetPin (s : State) : (loseUartRule s).resetPin = s.resetPin := rfl
@[simp] theorem loseUartRule_responses (s : State) : (loseUartRule s).responses = s.responses := rfl
@[simp] theorem loseUartRule_trace (s : State) : (loseUartRule s).trace = s.trace := rfl
@[simp] theorem loseUartRule_frees (s : State) : (loseUartRule s).frees = s.frees := rfl

@[simp] theorem clearExtract_record (s : State) : (clearExtract s).record = s.record := rfl
@[simp] theorem clearExtract_pid (s : State) : (clearExtract s).pid = s.pid := rfl
@[simp] theorem clearExtract_pollInterval (s : State) : (clearExtract s).pollInterval = s.pollInterval := rfl
@[simp] theorem clearExtract_mA (s : State) : (clearExtract s).mA = s.mA := rfl
@[simp] theorem clearExtract_mB (s : State) : (clearExtract s).mB = s.mB := rfl
@[simp] theorem clearExtract_txf (s : State) : (clearExtract s).txf = s.txf := rfl
@[simp] theorem clearExtract_rxf (s : State) : (clearExtract s).rxf = s.rxf := rfl
@[simp] theorem clearExtract_phase (s : State) : (clearExtract s).phase = s.phase := rfl
@[simp] theorem clearExtract_tb (s : State) : (clearExtract s).tb = s.tb := rfl
@[simp] theorem clearExtract_tp (s : State) : (clearExtract s).tp = s.tp := rfl
@[simp] theorem clearExtract_staged (s : State) : (clearExtract s).staged = s.staged := rfl
@[simp] theorem clearExtract_img (s : State) : (clearExtract s).img = s.img := rfl
@[simp] theorem clearExtract_scan (s : State) : (clearExtract s).scan = { s.scan with payload := [] } := rfl
@[simp] theorem clearExtract_tlmCarry (s : State) : (clearExtract s).tlmCarry = s.tlmCarry := rfl
@[simp] theorem clearExtract_rxSegments (s : State) : (clearExtract s).rxSegments = s.rxSegments := rfl
@[simp] theorem clearExtract_txSegments (s : State) : (clearExtract s).txSegments = s.txSegments := rfl
@[simp] theorem clearExtract_floor (s : State) : (clearExtract s).floor = s.floor := rfl
@[simp] theorem clearExtract_smp (s : State) : (clearExtract s).smp = [] := rfl
@[simp] theorem clearExtract_seg (s : State) : (clearExtract s).seg = [] := rfl
@[simp] theorem clearExtract_tail (s : State) : (clearExtract s).tail = none := rfl
@[simp] theorem clearExtract_diag (s : State) : (clearExtract s).diag = 0 := rfl
@[simp] theorem clearExtract_uartCfg (s : State) : (clearExtract s).uartCfg = s.uartCfg := rfl
@[simp] theorem clearExtract_uartCfgKnown (s : State) : (clearExtract s).uartCfgKnown = s.uartCfgKnown := rfl
@[simp] theorem clearExtract_uartRule (s : State) : (clearExtract s).uartRule = s.uartRule := rfl
@[simp] theorem clearExtract_uartRuleKnown (s : State) : (clearExtract s).uartRuleKnown = s.uartRuleKnown := rfl
@[simp] theorem clearExtract_lineA (s : State) : (clearExtract s).lineA = s.lineA := rfl
@[simp] theorem clearExtract_lineB (s : State) : (clearExtract s).lineB = s.lineB := rfl
@[simp] theorem clearExtract_hostCmds (s : State) : (clearExtract s).hostCmds = s.hostCmds := rfl
@[simp] theorem clearExtract_busyIn (s : State) : (clearExtract s).busyIn = s.busyIn := rfl
@[simp] theorem clearExtract_ackIn (s : State) : (clearExtract s).ackIn = s.ackIn := rfl
@[simp] theorem clearExtract_countIn (s : State) : (clearExtract s).countIn = s.countIn := rfl
@[simp] theorem clearExtract_readIn (s : State) : (clearExtract s).readIn = s.readIn := rfl
@[simp] theorem clearExtract_resetPin (s : State) : (clearExtract s).resetPin = s.resetPin := rfl
@[simp] theorem clearExtract_responses (s : State) : (clearExtract s).responses = s.responses := rfl
@[simp] theorem clearExtract_trace (s : State) : (clearExtract s).trace = s.trace := rfl
@[simp] theorem clearExtract_frees (s : State) : (clearExtract s).frees = s.frees := rfl

@[simp] theorem beginScan_record (s : State) : (beginScan s).record = s.record := rfl
@[simp] theorem beginScan_pid (s : State) : (beginScan s).pid = s.pid := rfl
@[simp] theorem beginScan_pollInterval (s : State) : (beginScan s).pollInterval = s.pollInterval := rfl
@[simp] theorem beginScan_mA (s : State) : (beginScan s).mA = s.mA := rfl
@[simp] theorem beginScan_mB (s : State) : (beginScan s).mB = s.mB := rfl
@[simp] theorem beginScan_txf (s : State) : (beginScan s).txf = s.txf := rfl
@[simp] theorem beginScan_rxf (s : State) : (beginScan s).rxf = s.rxf := rfl
@[simp] theorem beginScan_phase (s : State) : (beginScan s).phase = s.phase := rfl
@[simp] theorem beginScan_tb (s : State) : (beginScan s).tb = s.tb := rfl
@[simp] theorem beginScan_tp (s : State) : (beginScan s).tp = s.tp := rfl
@[simp] theorem beginScan_staged (s : State) : (beginScan s).staged = s.staged := rfl
@[simp] theorem beginScan_img (s : State) : (beginScan s).img = s.img := rfl
@[simp] theorem beginScan_scan (s : State) : (beginScan s).scan = { s.scan with expect := s.tlmCarry, carryIn := s.tlmCarry, start := none } := rfl
@[simp] theorem beginScan_tlmCarry (s : State) : (beginScan s).tlmCarry = s.tlmCarry := rfl
@[simp] theorem beginScan_rxSegments (s : State) : (beginScan s).rxSegments = s.rxSegments := rfl
@[simp] theorem beginScan_txSegments (s : State) : (beginScan s).txSegments = s.txSegments := rfl
@[simp] theorem beginScan_floor (s : State) : (beginScan s).floor = s.floor := rfl
@[simp] theorem beginScan_smp (s : State) : (beginScan s).smp = s.smp := rfl
@[simp] theorem beginScan_seg (s : State) : (beginScan s).seg = s.seg := rfl
@[simp] theorem beginScan_tail (s : State) : (beginScan s).tail = s.tail := rfl
@[simp] theorem beginScan_diag (s : State) : (beginScan s).diag = s.diag := rfl
@[simp] theorem beginScan_uartCfg (s : State) : (beginScan s).uartCfg = s.uartCfg := rfl
@[simp] theorem beginScan_uartCfgKnown (s : State) : (beginScan s).uartCfgKnown = s.uartCfgKnown := rfl
@[simp] theorem beginScan_uartRule (s : State) : (beginScan s).uartRule = s.uartRule := rfl
@[simp] theorem beginScan_uartRuleKnown (s : State) : (beginScan s).uartRuleKnown = s.uartRuleKnown := rfl
@[simp] theorem beginScan_lineA (s : State) : (beginScan s).lineA = s.lineA := rfl
@[simp] theorem beginScan_lineB (s : State) : (beginScan s).lineB = s.lineB := rfl
@[simp] theorem beginScan_hostCmds (s : State) : (beginScan s).hostCmds = s.hostCmds := rfl
@[simp] theorem beginScan_busyIn (s : State) : (beginScan s).busyIn = s.busyIn := rfl
@[simp] theorem beginScan_ackIn (s : State) : (beginScan s).ackIn = s.ackIn := rfl
@[simp] theorem beginScan_countIn (s : State) : (beginScan s).countIn = s.countIn := rfl
@[simp] theorem beginScan_readIn (s : State) : (beginScan s).readIn = s.readIn := rfl
@[simp] theorem beginScan_resetPin (s : State) : (beginScan s).resetPin = s.resetPin := rfl
@[simp] theorem beginScan_responses (s : State) : (beginScan s).responses = s.responses := rfl
@[simp] theorem beginScan_trace (s : State) : (beginScan s).trace = s.trace := rfl
@[simp] theorem beginScan_frees (s : State) : (beginScan s).frees = s.frees := rfl

@[simp] theorem storeCursor_record (c : Cursor) (s : State) : (storeCursor c s).record = s.record := rfl
@[simp] theorem storeCursor_pid (c : Cursor) (s : State) : (storeCursor c s).pid = s.pid := rfl
@[simp] theorem storeCursor_pollInterval (c : Cursor) (s : State) : (storeCursor c s).pollInterval = s.pollInterval := rfl
@[simp] theorem storeCursor_mA (c : Cursor) (s : State) : (storeCursor c s).mA = s.mA := rfl
@[simp] theorem storeCursor_mB (c : Cursor) (s : State) : (storeCursor c s).mB = s.mB := rfl
@[simp] theorem storeCursor_txf (c : Cursor) (s : State) : (storeCursor c s).txf = s.txf := rfl
@[simp] theorem storeCursor_rxf (c : Cursor) (s : State) : (storeCursor c s).rxf = s.rxf := rfl
@[simp] theorem storeCursor_phase (c : Cursor) (s : State) : (storeCursor c s).phase = s.phase := rfl
@[simp] theorem storeCursor_tb (c : Cursor) (s : State) : (storeCursor c s).tb = s.tb := rfl
@[simp] theorem storeCursor_tp (c : Cursor) (s : State) : (storeCursor c s).tp = s.tp := rfl
@[simp] theorem storeCursor_staged (c : Cursor) (s : State) : (storeCursor c s).staged = s.staged := rfl
@[simp] theorem storeCursor_img (c : Cursor) (s : State) : (storeCursor c s).img = s.img := rfl
@[simp] theorem storeCursor_scan (c : Cursor) (s : State) : (storeCursor c s).scan = { s.scan with expect := c.expect, start := c.start, payload := c.payload } := rfl
@[simp] theorem storeCursor_tlmCarry (c : Cursor) (s : State) : (storeCursor c s).tlmCarry = s.tlmCarry := rfl
@[simp] theorem storeCursor_rxSegments (c : Cursor) (s : State) : (storeCursor c s).rxSegments = c.rxSegments := rfl
@[simp] theorem storeCursor_txSegments (c : Cursor) (s : State) : (storeCursor c s).txSegments = s.txSegments := rfl
@[simp] theorem storeCursor_floor (c : Cursor) (s : State) : (storeCursor c s).floor = s.floor := rfl
@[simp] theorem storeCursor_smp (c : Cursor) (s : State) : (storeCursor c s).smp = c.smp := rfl
@[simp] theorem storeCursor_seg (c : Cursor) (s : State) : (storeCursor c s).seg = c.seg := rfl
@[simp] theorem storeCursor_tail (c : Cursor) (s : State) : (storeCursor c s).tail = s.tail := rfl
@[simp] theorem storeCursor_diag (c : Cursor) (s : State) : (storeCursor c s).diag = diagOf (diagDeferred s.diag) c.overflow := rfl
@[simp] theorem storeCursor_uartCfg (c : Cursor) (s : State) : (storeCursor c s).uartCfg = s.uartCfg := rfl
@[simp] theorem storeCursor_uartCfgKnown (c : Cursor) (s : State) : (storeCursor c s).uartCfgKnown = s.uartCfgKnown := rfl
@[simp] theorem storeCursor_uartRule (c : Cursor) (s : State) : (storeCursor c s).uartRule = s.uartRule := rfl
@[simp] theorem storeCursor_uartRuleKnown (c : Cursor) (s : State) : (storeCursor c s).uartRuleKnown = s.uartRuleKnown := rfl
@[simp] theorem storeCursor_lineA (c : Cursor) (s : State) : (storeCursor c s).lineA = s.lineA := rfl
@[simp] theorem storeCursor_lineB (c : Cursor) (s : State) : (storeCursor c s).lineB = s.lineB := rfl
@[simp] theorem storeCursor_hostCmds (c : Cursor) (s : State) : (storeCursor c s).hostCmds = s.hostCmds := rfl
@[simp] theorem storeCursor_busyIn (c : Cursor) (s : State) : (storeCursor c s).busyIn = s.busyIn := rfl
@[simp] theorem storeCursor_ackIn (c : Cursor) (s : State) : (storeCursor c s).ackIn = s.ackIn := rfl
@[simp] theorem storeCursor_countIn (c : Cursor) (s : State) : (storeCursor c s).countIn = s.countIn := rfl
@[simp] theorem storeCursor_readIn (c : Cursor) (s : State) : (storeCursor c s).readIn = s.readIn := rfl
@[simp] theorem storeCursor_resetPin (c : Cursor) (s : State) : (storeCursor c s).resetPin = s.resetPin := rfl
@[simp] theorem storeCursor_responses (c : Cursor) (s : State) : (storeCursor c s).responses = s.responses := rfl
@[simp] theorem storeCursor_trace (c : Cursor) (s : State) : (storeCursor c s).trace = s.trace := rfl
@[simp] theorem storeCursor_frees (c : Cursor) (s : State) : (storeCursor c s).frees = s.frees := rfl

@[simp] theorem storeTail_record (n : Nat) (s : State) : (storeTail n s).record = s.record := rfl
@[simp] theorem storeTail_pid (n : Nat) (s : State) : (storeTail n s).pid = s.pid := rfl
@[simp] theorem storeTail_pollInterval (n : Nat) (s : State) : (storeTail n s).pollInterval = s.pollInterval := rfl
@[simp] theorem storeTail_mA (n : Nat) (s : State) : (storeTail n s).mA = s.mA := rfl
@[simp] theorem storeTail_mB (n : Nat) (s : State) : (storeTail n s).mB = s.mB := rfl
@[simp] theorem storeTail_txf (n : Nat) (s : State) : (storeTail n s).txf = s.txf := rfl
@[simp] theorem storeTail_rxf (n : Nat) (s : State) : (storeTail n s).rxf = s.rxf := rfl
@[simp] theorem storeTail_phase (n : Nat) (s : State) : (storeTail n s).phase = s.phase := rfl
@[simp] theorem storeTail_tb (n : Nat) (s : State) : (storeTail n s).tb = s.tb := rfl
@[simp] theorem storeTail_tp (n : Nat) (s : State) : (storeTail n s).tp = s.tp := rfl
@[simp] theorem storeTail_staged (n : Nat) (s : State) : (storeTail n s).staged = s.staged := rfl
@[simp] theorem storeTail_img (n : Nat) (s : State) : (storeTail n s).img = s.img := rfl
@[simp] theorem storeTail_scan (n : Nat) (s : State) : (storeTail n s).scan = s.scan := rfl
@[simp] theorem storeTail_tlmCarry (n : Nat) (s : State) : (storeTail n s).tlmCarry = s.tlmCarry := rfl
@[simp] theorem storeTail_rxSegments (n : Nat) (s : State) : (storeTail n s).rxSegments = s.rxSegments := rfl
@[simp] theorem storeTail_txSegments (n : Nat) (s : State) : (storeTail n s).txSegments = s.txSegments := rfl
@[simp] theorem storeTail_floor (n : Nat) (s : State) : (storeTail n s).floor = s.floor := rfl
@[simp] theorem storeTail_smp (n : Nat) (s : State) : (storeTail n s).smp = s.smp := rfl
@[simp] theorem storeTail_seg (n : Nat) (s : State) : (storeTail n s).seg = s.seg := rfl
@[simp] theorem storeTail_diag (n : Nat) (s : State) : (storeTail n s).diag = s.diag := rfl
@[simp] theorem storeTail_uartCfg (n : Nat) (s : State) : (storeTail n s).uartCfg = s.uartCfg := rfl
@[simp] theorem storeTail_uartCfgKnown (n : Nat) (s : State) : (storeTail n s).uartCfgKnown = s.uartCfgKnown := rfl
@[simp] theorem storeTail_uartRule (n : Nat) (s : State) : (storeTail n s).uartRule = s.uartRule := rfl
@[simp] theorem storeTail_uartRuleKnown (n : Nat) (s : State) : (storeTail n s).uartRuleKnown = s.uartRuleKnown := rfl
@[simp] theorem storeTail_lineA (n : Nat) (s : State) : (storeTail n s).lineA = s.lineA := rfl
@[simp] theorem storeTail_lineB (n : Nat) (s : State) : (storeTail n s).lineB = s.lineB := rfl
@[simp] theorem storeTail_hostCmds (n : Nat) (s : State) : (storeTail n s).hostCmds = s.hostCmds := rfl
@[simp] theorem storeTail_busyIn (n : Nat) (s : State) : (storeTail n s).busyIn = s.busyIn := rfl
@[simp] theorem storeTail_ackIn (n : Nat) (s : State) : (storeTail n s).ackIn = s.ackIn := rfl
@[simp] theorem storeTail_countIn (n : Nat) (s : State) : (storeTail n s).countIn = s.countIn := rfl
@[simp] theorem storeTail_readIn (n : Nat) (s : State) : (storeTail n s).readIn = s.readIn := rfl
@[simp] theorem storeTail_resetPin (n : Nat) (s : State) : (storeTail n s).resetPin = s.resetPin := rfl
@[simp] theorem storeTail_responses (n : Nat) (s : State) : (storeTail n s).responses = s.responses := rfl
@[simp] theorem storeTail_trace (n : Nat) (s : State) : (storeTail n s).trace = s.trace := rfl
@[simp] theorem storeTail_frees (n : Nat) (s : State) : (storeTail n s).frees = s.frees := rfl
@[simp] theorem storeTail_tail (n : Nat) (s : State) : (storeTail n s).tail =
    match s.scan.start with
    | some first => some ⟨first, n - 1⟩
    | none => s.tail := rfl

@[simp] theorem markDeferred_record (s : State) : (markDeferred s).record = s.record := rfl
@[simp] theorem markDeferred_pid (s : State) : (markDeferred s).pid = s.pid := rfl
@[simp] theorem markDeferred_pollInterval (s : State) : (markDeferred s).pollInterval = s.pollInterval := rfl
@[simp] theorem markDeferred_mA (s : State) : (markDeferred s).mA = s.mA := rfl
@[simp] theorem markDeferred_mB (s : State) : (markDeferred s).mB = s.mB := rfl
@[simp] theorem markDeferred_txf (s : State) : (markDeferred s).txf = s.txf := rfl
@[simp] theorem markDeferred_rxf (s : State) : (markDeferred s).rxf = s.rxf := rfl
@[simp] theorem markDeferred_phase (s : State) : (markDeferred s).phase = s.phase := rfl
@[simp] theorem markDeferred_tb (s : State) : (markDeferred s).tb = s.tb := rfl
@[simp] theorem markDeferred_tp (s : State) : (markDeferred s).tp = s.tp := rfl
@[simp] theorem markDeferred_staged (s : State) : (markDeferred s).staged = s.staged := rfl
@[simp] theorem markDeferred_img (s : State) : (markDeferred s).img = s.img := rfl
@[simp] theorem markDeferred_scan (s : State) : (markDeferred s).scan = s.scan := rfl
@[simp] theorem markDeferred_tlmCarry (s : State) : (markDeferred s).tlmCarry = s.tlmCarry := rfl
@[simp] theorem markDeferred_rxSegments (s : State) : (markDeferred s).rxSegments = s.rxSegments := rfl
@[simp] theorem markDeferred_txSegments (s : State) : (markDeferred s).txSegments = s.txSegments := rfl
@[simp] theorem markDeferred_floor (s : State) : (markDeferred s).floor = s.floor := rfl
@[simp] theorem markDeferred_smp (s : State) : (markDeferred s).smp = s.smp := rfl
@[simp] theorem markDeferred_seg (s : State) : (markDeferred s).seg = s.seg := rfl
@[simp] theorem markDeferred_tail (s : State) : (markDeferred s).tail = s.tail := rfl
@[simp] theorem markDeferred_uartCfg (s : State) : (markDeferred s).uartCfg = s.uartCfg := rfl
@[simp] theorem markDeferred_uartCfgKnown (s : State) : (markDeferred s).uartCfgKnown = s.uartCfgKnown := rfl
@[simp] theorem markDeferred_uartRule (s : State) : (markDeferred s).uartRule = s.uartRule := rfl
@[simp] theorem markDeferred_uartRuleKnown (s : State) : (markDeferred s).uartRuleKnown = s.uartRuleKnown := rfl
@[simp] theorem markDeferred_lineA (s : State) : (markDeferred s).lineA = s.lineA := rfl
@[simp] theorem markDeferred_lineB (s : State) : (markDeferred s).lineB = s.lineB := rfl
@[simp] theorem markDeferred_hostCmds (s : State) : (markDeferred s).hostCmds = s.hostCmds := rfl
@[simp] theorem markDeferred_busyIn (s : State) : (markDeferred s).busyIn = s.busyIn := rfl
@[simp] theorem markDeferred_ackIn (s : State) : (markDeferred s).ackIn = s.ackIn := rfl
@[simp] theorem markDeferred_countIn (s : State) : (markDeferred s).countIn = s.countIn := rfl
@[simp] theorem markDeferred_readIn (s : State) : (markDeferred s).readIn = s.readIn := rfl
@[simp] theorem markDeferred_resetPin (s : State) : (markDeferred s).resetPin = s.resetPin := rfl
@[simp] theorem markDeferred_responses (s : State) : (markDeferred s).responses = s.responses := rfl
@[simp] theorem markDeferred_trace (s : State) : (markDeferred s).trace = s.trace := rfl
@[simp] theorem markDeferred_frees (s : State) : (markDeferred s).frees = s.frees := rfl
@[simp] theorem markDeferred_diag (s : State) : (markDeferred s).diag =
    if s.scan.expect then diagOf true (diagOverflow s.diag) else s.diag := rfl

@[simp] theorem keepCarry_record (s : State) : (keepCarry s).record = s.record := rfl
@[simp] theorem keepCarry_pid (s : State) : (keepCarry s).pid = s.pid := rfl
@[simp] theorem keepCarry_pollInterval (s : State) : (keepCarry s).pollInterval = s.pollInterval := rfl
@[simp] theorem keepCarry_mA (s : State) : (keepCarry s).mA = s.mA := rfl
@[simp] theorem keepCarry_mB (s : State) : (keepCarry s).mB = s.mB := rfl
@[simp] theorem keepCarry_txf (s : State) : (keepCarry s).txf = s.txf := rfl
@[simp] theorem keepCarry_rxf (s : State) : (keepCarry s).rxf = s.rxf := rfl
@[simp] theorem keepCarry_phase (s : State) : (keepCarry s).phase = s.phase := rfl
@[simp] theorem keepCarry_tb (s : State) : (keepCarry s).tb = s.tb := rfl
@[simp] theorem keepCarry_tp (s : State) : (keepCarry s).tp = s.tp := rfl
@[simp] theorem keepCarry_staged (s : State) : (keepCarry s).staged = s.staged := rfl
@[simp] theorem keepCarry_img (s : State) : (keepCarry s).img = s.img := rfl
@[simp] theorem keepCarry_scan (s : State) : (keepCarry s).scan = s.scan := rfl
@[simp] theorem keepCarry_tlmCarry (s : State) : (keepCarry s).tlmCarry = s.scan.expect := rfl
@[simp] theorem keepCarry_rxSegments (s : State) : (keepCarry s).rxSegments = s.rxSegments := rfl
@[simp] theorem keepCarry_txSegments (s : State) : (keepCarry s).txSegments = s.txSegments := rfl
@[simp] theorem keepCarry_floor (s : State) : (keepCarry s).floor = s.floor := rfl
@[simp] theorem keepCarry_smp (s : State) : (keepCarry s).smp = s.smp := rfl
@[simp] theorem keepCarry_seg (s : State) : (keepCarry s).seg = s.seg := rfl
@[simp] theorem keepCarry_tail (s : State) : (keepCarry s).tail = s.tail := rfl
@[simp] theorem keepCarry_diag (s : State) : (keepCarry s).diag = s.diag := rfl
@[simp] theorem keepCarry_uartCfg (s : State) : (keepCarry s).uartCfg = s.uartCfg := rfl
@[simp] theorem keepCarry_uartCfgKnown (s : State) : (keepCarry s).uartCfgKnown = s.uartCfgKnown := rfl
@[simp] theorem keepCarry_uartRule (s : State) : (keepCarry s).uartRule = s.uartRule := rfl
@[simp] theorem keepCarry_uartRuleKnown (s : State) : (keepCarry s).uartRuleKnown = s.uartRuleKnown := rfl
@[simp] theorem keepCarry_lineA (s : State) : (keepCarry s).lineA = s.lineA := rfl
@[simp] theorem keepCarry_lineB (s : State) : (keepCarry s).lineB = s.lineB := rfl
@[simp] theorem keepCarry_hostCmds (s : State) : (keepCarry s).hostCmds = s.hostCmds := rfl
@[simp] theorem keepCarry_busyIn (s : State) : (keepCarry s).busyIn = s.busyIn := rfl
@[simp] theorem keepCarry_ackIn (s : State) : (keepCarry s).ackIn = s.ackIn := rfl
@[simp] theorem keepCarry_countIn (s : State) : (keepCarry s).countIn = s.countIn := rfl
@[simp] theorem keepCarry_readIn (s : State) : (keepCarry s).readIn = s.readIn := rfl
@[simp] theorem keepCarry_resetPin (s : State) : (keepCarry s).resetPin = s.resetPin := rfl
@[simp] theorem keepCarry_responses (s : State) : (keepCarry s).responses = s.responses := rfl
@[simp] theorem keepCarry_trace (s : State) : (keepCarry s).trace = s.trace := rfl
@[simp] theorem keepCarry_frees (s : State) : (keepCarry s).frees = s.frees := rfl

@[simp] theorem dropScan_record (s : State) : (dropScan s).record = s.record := rfl
@[simp] theorem dropScan_pid (s : State) : (dropScan s).pid = s.pid := rfl
@[simp] theorem dropScan_pollInterval (s : State) : (dropScan s).pollInterval = s.pollInterval := rfl
@[simp] theorem dropScan_mA (s : State) : (dropScan s).mA = s.mA := rfl
@[simp] theorem dropScan_mB (s : State) : (dropScan s).mB = s.mB := rfl
@[simp] theorem dropScan_txf (s : State) : (dropScan s).txf = s.txf := rfl
@[simp] theorem dropScan_rxf (s : State) : (dropScan s).rxf = s.rxf := rfl
@[simp] theorem dropScan_phase (s : State) : (dropScan s).phase = s.phase := rfl
@[simp] theorem dropScan_tb (s : State) : (dropScan s).tb = s.tb := rfl
@[simp] theorem dropScan_tp (s : State) : (dropScan s).tp = s.tp := rfl
@[simp] theorem dropScan_staged (s : State) : (dropScan s).staged = s.staged := rfl
@[simp] theorem dropScan_img (s : State) : (dropScan s).img = s.img := rfl
@[simp] theorem dropScan_scan (s : State) : (dropScan s).scan = scanEmpty := rfl
@[simp] theorem dropScan_tlmCarry (s : State) : (dropScan s).tlmCarry = s.tlmCarry := rfl
@[simp] theorem dropScan_rxSegments (s : State) : (dropScan s).rxSegments = s.rxSegments := rfl
@[simp] theorem dropScan_txSegments (s : State) : (dropScan s).txSegments = s.txSegments := rfl
@[simp] theorem dropScan_floor (s : State) : (dropScan s).floor = s.floor := rfl
@[simp] theorem dropScan_smp (s : State) : (dropScan s).smp = s.smp := rfl
@[simp] theorem dropScan_seg (s : State) : (dropScan s).seg = s.seg := rfl
@[simp] theorem dropScan_tail (s : State) : (dropScan s).tail = s.tail := rfl
@[simp] theorem dropScan_diag (s : State) : (dropScan s).diag = s.diag := rfl
@[simp] theorem dropScan_uartCfg (s : State) : (dropScan s).uartCfg = s.uartCfg := rfl
@[simp] theorem dropScan_uartCfgKnown (s : State) : (dropScan s).uartCfgKnown = s.uartCfgKnown := rfl
@[simp] theorem dropScan_uartRule (s : State) : (dropScan s).uartRule = s.uartRule := rfl
@[simp] theorem dropScan_uartRuleKnown (s : State) : (dropScan s).uartRuleKnown = s.uartRuleKnown := rfl
@[simp] theorem dropScan_lineA (s : State) : (dropScan s).lineA = s.lineA := rfl
@[simp] theorem dropScan_lineB (s : State) : (dropScan s).lineB = s.lineB := rfl
@[simp] theorem dropScan_hostCmds (s : State) : (dropScan s).hostCmds = s.hostCmds := rfl
@[simp] theorem dropScan_busyIn (s : State) : (dropScan s).busyIn = s.busyIn := rfl
@[simp] theorem dropScan_ackIn (s : State) : (dropScan s).ackIn = s.ackIn := rfl
@[simp] theorem dropScan_countIn (s : State) : (dropScan s).countIn = s.countIn := rfl
@[simp] theorem dropScan_readIn (s : State) : (dropScan s).readIn = s.readIn := rfl
@[simp] theorem dropScan_resetPin (s : State) : (dropScan s).resetPin = s.resetPin := rfl
@[simp] theorem dropScan_responses (s : State) : (dropScan s).responses = s.responses := rfl
@[simp] theorem dropScan_trace (s : State) : (dropScan s).trace = s.trace := rfl
@[simp] theorem dropScan_frees (s : State) : (dropScan s).frees = s.frees := rfl

end Sys2Proof.Machine
end

