-- ==== Sys2Proof/Laws/Ops.lean ====
section
/-!
SUPPORT. For each shared operation one lemma that says once everything it can do, to be cited instead of
unfolding the operation.
-/

namespace Sys2Proof.Machine

/-- The state a step's outcome carries, before the sequencer settles `phase`. -/
def StepResult.state : StepResult → State
  | .go t => t
  | .stay t => t
  | .raise _ t => t
  | .done _ t => t

/-! ### The steps that wait for an answer -/

theorem transCheckStep_cases (t : Mode) (s : State) :
    (transCheckStep t s = .raise .invalidArgument s ∧ t.transparent = true ∧
      (codeToNative codec.baud (s.record.baud.setWidth 8) = notFound ∨
        codeToNative codec.parity (s.record.parity.setWidth 8) = notFound)) ∨
    ∃ b p, transCheckStep t s = .go { s with tb := b, tp := p } := by
  unfold transCheckStep
  split
  · split
    · exact .inl ⟨rfl, ‹_›, ‹_›⟩
    · exact .inr ⟨_, _, rfl⟩
  · exact .inr ⟨_, _, rfl⟩

theorem pollStep_cases (s : State) :
    (nextBusy s = .err ∧ pollStep s = .raise .ioFault (afterBusy s)) ∨
    (nextBusy s = .lvl readyLevel ∧ pollStep s = .go (afterBusy s)) ∨
    (nextBusy s = .lvl (!readyLevel) ∧
      pollStep s = .stay (delay s.pollInterval.toNat (afterBusy s))) := by
  unfold pollStep
  rcases h : nextBusy s with v | _
  · cases v <;> simp [readyLevel]
  · simp

theorem driveStep_cases (l : Line) (v : Bool) (s : State) :
    (nextAck s = .ok ∧ driveStep l v s = .go (setLine l v (afterAck (.gWr l v) s))) ∨
    (nextAck s = .err ∧ driveStep l v s = .raise .ioFault (loseLine l (afterAck (.gWr l v) s))) := by
  unfold driveStep
  cases h : nextAck s <;> simp

theorem uartConfigureStep_cases (s : State) :
    (nextAck s = .ok ∧ uartConfigureStep s =
      .go (setUartCfg s.tb s.tp (afterAck (.uCfg s.tb s.tp) s))) ∨
    (nextAck s = .err ∧ uartConfigureStep s =
      .raise .ioFault (loseUartCfg (afterAck (.uCfg s.tb s.tp) s))) := by
  unfold uartConfigureStep
  cases h : nextAck s <;> simp

theorem uartReadRuleStep_cases (m n : Nat) (s : State) :
    (nextAck s = .ok ∧ uartReadRuleStep m n s =
      .go (setUartRule m n (afterAck (.uRule m n) s))) ∨
    (nextAck s = .err ∧ uartReadRuleStep m n s =
      .raise .ioFault (loseUartRule (afterAck (.uRule m n) s))) := by
  unfold uartReadRuleStep
  cases h : nextAck s <;> simp

theorem sendStep_cases (s : State) :
    (nextCount s = .cnt s.txf.length ∧ sendStep s = .go (afterCount s.txf s)) ∨
    (nextCount s ≠ .cnt s.txf.length ∧ sendStep s = .raise .ioFault (afterCount s.txf s)) := by
  unfold sendStep
  rcases h : nextCount s with k | _
  · by_cases hk : k = s.txf.length <;> simp [hk]
  · simp

theorem flushStep_cases (s : State) :
    (nextAck s = .ok ∧ flushStep s = .go (afterAck .uFl s)) ∨
    (nextAck s = .err ∧ flushStep s = .raise .ioFault (afterAck .uFl s)) := by
  unfold flushStep
  cases h : nextAck s <;> simp

theorem recvStep_cases (k : Nat) (s : State) :
    (nextRead s = .err ∧ recvStep k s = .raise .ioFault (afterRead k s)) ∨
    (∃ l, nextRead s = .bytes l ∧ l.length = k ∧
      recvStep k s = .go { afterRead k s with rxf := l.take frameMax }) ∨
    (∃ l, nextRead s = .bytes l ∧ l.length ≠ k ∧
      recvStep k s = .raise .protocolFault { afterRead k s with rxf := l.take frameMax }) := by
  unfold recvStep
  rcases h : nextRead s with l | _
  · by_cases hk : l.length = k <;> simp [hk]
  · simp

theorem checkEchoStep_cases (s : State) :
    ((s.rxf.take s.txf.length).drop 1 = s.txf.drop 1 ∧ checkEchoStep s = .go s) ∨
    ((s.rxf.take s.txf.length).drop 1 ≠ s.txf.drop 1 ∧ checkEchoStep s = .raise .protocolFault s) := by
  unfold checkEchoStep
  by_cases h : (s.rxf.take s.txf.length).drop 1 = s.txf.drop 1
  · exact .inl ⟨h, if_pos h⟩
  · exact .inr ⟨h, if_neg h⟩

theorem flushOnReadStep_eq (s : State) : flushOnReadStep s = .go s := rfl

/-! ### The sequencer -/

theorem runSteps_eq {op : Instr} {p : StepList} {s : State} {loc : Loc} {m : Micro} {rest : StepList}
    (h : remaining p s.phase = (loc, m) :: rest) :
    runSteps op p s = .next (settleStep op loc rest (runMicro m s)) := by
  simp [runSteps, h]

theorem runSteps_cases {op : Instr} {p : StepList} {s t : State} (h : runSteps op p s = .next t) :
    ∃ loc m rest, remaining p s.phase = (loc, m) :: rest ∧
      t = settleStep op loc rest (runMicro m s) := by
  unfold runSteps at h
  split at h
  · cases h
  · rename_i loc m rest hr
    cases h
    exact ⟨loc, m, rest, hr, rfl⟩

theorem runSteps_fault {op : Instr} {p : StepList} {s : State} {f : Fault}
    (h : runSteps op p s = .fault f) : remaining p s.phase = [] := by
  unfold runSteps at h
  split at h
  · assumption
  · cases h

theorem runSteps_not_refused (op : Instr) (p : StepList) (s : State) (r : Refusal) :
    runSteps op p s ≠ .refused r := by
  unfold runSteps
  split <;> simp

theorem settleStep_cases (op : Instr) (loc : Loc) (rest : StepList) (x : StepResult) :
    (∃ t, x = .go t ∧ settleStep op loc rest x = { t with phase := phaseAt op rest }) ∨
    (∃ t, x = .stay t ∧ settleStep op loc rest x = { t with phase := .run op loc }) ∨
    (∃ f t, x = .raise f t ∧ settleStep op loc rest x = respond [faultCode f] t) ∨
    (∃ result t, x = .done result t ∧ settleStep op loc rest x = respond (0 :: result) t) := by
  cases x <;> simp [settleStep, statusDone, finish, raiseFault]

theorem fromLoc_head {loc : Loc} {p rest : StepList} {e : Loc × Micro} (h : fromLoc loc p = e :: rest) :
    e.1 = loc := by
  induction p with
  | nil => cases h
  | cons d p ih =>
    unfold fromLoc at h
    split at h
    · cases h; assumption
    · exact ih h

theorem fromLoc_suffix (loc : Loc) (p : StepList) : fromLoc loc p <:+ p := by
  induction p with
  | nil => exact List.suffix_refl _
  | cons d p ih =>
    unfold fromLoc
    split
    · exact List.suffix_refl _
    · exact ih.trans (List.suffix_cons d p)

theorem remaining_suffix (p : StepList) (ph : Phase) : remaining p ph <:+ p := by
  cases ph
  · exact List.suffix_refl _
  · exact fromLoc_suffix _ _

theorem checkedStep_cases (legal : Bool) (t s : State) :
    (legal = true ∧ checkedStep legal t s = .next t) ∨
    (legal = false ∧ checkedStep legal t s = .next (respond [1] s)) := by
  cases legal <;> simp [checkedStep, faultCode]

/-- The steps of `TLM_EXTRACT`: they write the telemetry results or the working values (R304, R48). -/
def Micro.extracts : Micro → Bool
  | .clearExtract _ | .beginScan | .scanBuffer _ | .storeTail _ | .markDeferred | .keepCarry
  | .doneExtract => true
  | _ => false

/-- A step of a step list never touches the poll interval, the sent counter, the host's packets, the reset input,
the responses or `phase`, and only the steps of `TLM_EXTRACT` touch the telemetry results and its working values. -/
theorem runMicro_frame (m : Micro) (s : State) :
    let t := (runMicro m s).state
    (t.pollInterval = s.pollInterval ∧ t.txSegments = s.txSegments ∧ t.hostCmds = s.hostCmds ∧
      t.resetPin = s.resetPin ∧ t.responses = s.responses ∧ t.phase = s.phase) ∧
    (m.extracts = false → t.tlmCarry = s.tlmCarry ∧ t.rxSegments = s.rxSegments ∧ t.smp = s.smp ∧
      t.seg = s.seg ∧ t.tail = s.tail ∧ t.diag = s.diag ∧ t.scan = s.scan) := by
  cases m with
  | require holds f => cases holds <;> simp [runMicro, StepResult.state]
  | transCheck md =>
    rcases transCheckStep_cases md s with ⟨h, -⟩ | ⟨b, p, h⟩ <;> simp [runMicro, h, StepResult.state]
  | poll =>
    rcases pollStep_cases s with ⟨-, h⟩ | ⟨-, h⟩ | ⟨-, h⟩ <;> simp [runMicro, h, StepResult.state]
  | drive l v =>
    rcases driveStep_cases l v s with ⟨-, h⟩ | ⟨-, h⟩ <;> simp [runMicro, h, StepResult.state]
  | uartConfigure =>
    rcases uartConfigureStep_cases s with ⟨-, h⟩ | ⟨-, h⟩ <;> simp [runMicro, h, StepResult.state]
  | uartReadRule a b =>
    rcases uartReadRuleStep_cases a b s with ⟨-, h⟩ | ⟨-, h⟩ <;> simp [runMicro, h, StepResult.state]
  | send => rcases sendStep_cases s with ⟨-, h⟩ | ⟨-, h⟩ <;> simp [runMicro, h, StepResult.state]
  | flush => rcases flushStep_cases s with ⟨-, h⟩ | ⟨-, h⟩ <;> simp [runMicro, h, StepResult.state]
  | recv k =>
    rcases recvStep_cases k s with ⟨-, h⟩ | ⟨l, -, -, h⟩ | ⟨l, -, -, h⟩ <;>
      simp [runMicro, h, StepResult.state]
  | recvEcho =>
    rcases recvStep_cases s.txf.length s with ⟨-, h⟩ | ⟨l, -, -, h⟩ | ⟨l, -, -, h⟩ <;>
      simp [runMicro, h, StepResult.state]
  | checkEcho =>
    rcases checkEchoStep_cases s with ⟨-, h⟩ | ⟨-, h⟩ <;> simp [runMicro, h, StepResult.state]
  | scanBuffer rxb => simp [runMicro, scanBuffer, StepResult.state, Micro.extracts]
  | clearExtract legal => cases legal <;> simp [runMicro, StepResult.state, Micro.extracts]
  | commit b => cases b <;> simp [runMicro, StepResult.state]
  | _ => simp [runMicro, flushOnReadStep_eq, StepResult.state, Micro.extracts]

/-! ### The steps of `TLM_EXTRACT` -/

/-- After steps 1 and 2 of R304 the loop begins with the cursor of a whole extraction. -/
theorem scanCursor_begun (s : State) :
    scanCursor (beginScan (clearExtract s)) = startCursor s.tlmCarry s.rxSegments := by
  simp [scanCursor, startCursor, diagOverflow]

/-- Steps 1 to 3 of R304 store what the extractor finds in the buffer. -/
theorem scanBuffer_begun (rxb : List Byte) (s : State) :
    scanBuffer rxb (beginScan (clearExtract s)) =
      storeCursor (extract (blockParams s.tlmCarry) s.tlmCarry s.rxSegments rxb)
        (beginScan (clearExtract s)) := by
  rw [scanBuffer, scanCursor_begun]; rfl

theorem storeTail_cases (n : Nat) (s : State) :
    (s.scan.start = none ∧ storeTail n s = s) ∨
    ∃ first, s.scan.start = some first ∧ storeTail n s = { s with tail := some ⟨first, n - 1⟩ } := by
  unfold storeTail
  cases h : s.scan.start
  · exact .inl ⟨rfl, rfl⟩
  · exact .inr ⟨_, rfl, rfl⟩

theorem markDeferred_cases (s : State) :
    (s.scan.expect = false ∧ markDeferred s = s) ∨
    (s.scan.expect = true ∧ markDeferred s = { s with diag := diagOf true (diagOverflow s.diag) }) := by
  unfold markDeferred
  cases s.scan.expect
  · exact .inl ⟨rfl, rfl⟩
  · exact .inr ⟨rfl, rfl⟩

/-! ### Runs and transitions -/

theorem runExec_succ {i : Instr} {s t : State} (h : exec i s = .next t) (k : Nat) :
    runExec i (k + 1) s = runExec i k t := by simp [runExec, h]

theorem runExec_add {i : Instr} {m : Nat} (n : Nat) {s t : State} (h : runExec i m s = .next t) :
    runExec i (m + n) s = runExec i n t := by
  induction m generalizing s with
  | zero => cases h; rw [Nat.zero_add]
  | succ m ih =>
    rw [Nat.succ_add]
    simp only [runExec] at h ⊢
    cases hx : exec i s with
    | next u => rw [hx] at h; exact ih h
    | fault f => rw [hx] at h; cases h
    | refused r => rw [hx] at h; cases h

theorem codeToNative_found {t : CodecTable} {code : Byte} (h : codeToNative t code ≠ notFound) :
    codeToNative t code = code := by
  unfold codeToNative at h ⊢
  split <;> simp_all

/-- Step 1 of a transition to Normal or Wor with codes that have native identifiers (R223, R227). -/
theorem transCheckStep_native {m : Mode} {s : State} (ht : m.transparent = true) (hn : hasNative s.record) :
    transCheckStep m s = .go { s with tb := s.record.baud, tp := s.record.parity } := by
  have hb := codeToNative_found hn.1
  have hp := codeToNative_found hn.2
  have h1 := hn.1
  have h2 := hn.2
  rw [hb] at h1
  rw [hp] at h2
  simp only [transCheckStep, ht, hb, hp, if_true, h1, h2, or_self, if_false]
  simp [BitVec.setWidth_setWidth_of_le]

theorem transCheckStep_control {m : Mode} (s : State) (ht : m.transparent = false) :
    transCheckStep m s = .go { s with tb := controlBaud, tp := controlParity } := by
  simp [transCheckStep, ht, controlBaud, controlParity]

/-! ### The extractor, one byte more -/

theorem extractLoop_append (q : ExtractParams) (before : List Byte) (c : Cursor) (l m : List Byte) :
    extractLoop q before c (l ++ m) = extractLoop q (before ++ l) (extractLoop q before c l) m := by
  induction l generalizing before c with
  | nil => simp [extractLoop]
  | cons b l ih => simp [extractLoop, ih]

theorem extract_concat (q : ExtractParams) (carry : Bool) (count : Word) (rxb : List Byte) (b : Byte) :
    extract q carry count (rxb ++ [b]) =
      extractByte q rxb.length (rxb ++ [b]) b (extract q carry count rxb) := by
  simp [extract, extractLoop_append, extractLoop]

/-! ### One step of the machine -/

theorem step_reset {s : State} (h : resetAsserted s = true) :
    step s = .next (resetBlock (sampleReset s)) := by simp [step, h]

theorem step_running {s : State} {op : Instr} {loc : Loc} (hr : resetAsserted s = false)
    (hp : s.phase = .run op loc) : step s = exec op (sampleReset s) := by
  simp [step, hr, stepRun, hp]

theorem step_idle {s : State} (hr : resetAsserted s = false) (hp : s.phase = .idle) :
    step s = match offered s with
      | none => .next (sampleReset s)
      | some (.ok i) => exec i (takePacket (sampleReset s))
      | some (.error _) => .next (rejectPacket (sampleReset s)) := by
  have ho : offered (sampleReset s) = offered s := rfl
  simp only [step, hr, stepRun, sampleReset_phase, hp, ho]
  rfl

end Sys2Proof.Machine
end

