-- ==== Sys2Proof/Laws/PerInstr.lean ====
section
/-!
SUPPORT. Statements made per instruction: a family's Statement and one lemma for each constructor of Instr.
-/

namespace Sys2Proof.Laws

/-- The byte count that the first bytes announce is the byte count the encoder writes (R122, R124, R102 to R104);
a reply announces none (R105). -/
def Encodable.Statement (i : Instr) : Prop :=
  i.wellFormed = true → i.space ≠ .reply → fullLength (encode i) = (encode i).length

/-- A write frame the block builds is never read as a Q frame: its address would be unmapped (R109). -/
theorem wireW_not_q {addr : Byte} {data : List Byte} (h : Machine.spanOk addr data.length = true) :
    (encode (.wireW addr data)).take 4 ≠ qPrefix := by
  intro hq
  have ha : addr = 0xC1 := by
    simp [encode, qPrefix] at hq
    exact hq.1
  subst ha
  simp [Machine.spanOk] at h
  omega

theorem Encodable.wireW (addr : Byte) (data : List Byte) : Encodable.Statement (.wireW addr data) := by
  intro h _
  have hs : Machine.spanOk addr data.length = true := h
  have hq := wireW_not_q hs
  have hl : data.length < 256 := by
    simp [Machine.spanOk] at hs
    omega
  have hq' : ¬ (192#8 :: addr :: BitVec.ofNat 8 data.length :: data.take 1 = qPrefix) := by
    simpa [encode] using hq
  simp [fullLength, encode, hq', Nat.mod_eq_of_lt hl]
  omega

theorem Encodable.wireR (addr len : Byte) : Encodable.Statement (.wireR addr len) := fun _ _ => rfl

theorem Encodable.wireQ (addr len : Byte) : Encodable.Statement (.wireQ addr len) := by
  intro _ _
  simp [fullLength, encode, qPrefix]

theorem Encodable.wireReply (h0 h1 h2 : Byte) (data : List Byte) :
    Encodable.Statement (.wireReply h0 h1 h2 data) := fun _ h => absurd rfl h

theorem Encodable.regWrite (addr : Byte) (data : List Byte) : Encodable.Statement (.regWrite addr data) := by
  intro h _
  have hl : data.length < 256 := of_decide_eq_true h
  simp [fullLength, encode, Nat.mod_eq_of_lt hl]
  omega

/-- A 16-bit number from its two bytes. -/
theorem halfBytes_value (n : Nat) (h : n < 65536) :
    256 * (halfHi (BitVec.ofNat 16 n)).toNat + (halfLo (BitVec.ofNat 16 n)).toNat = n := by
  simp [halfHi, halfLo, BitVec.extractLsb'_toNat, Nat.shiftRight_eq_div_pow]
  omega

theorem Encodable.tlmExtract (rxb : List Byte) : Encodable.Statement (.tlmExtract rxb) := by
  intro h _
  have hl : rxb.length < 65536 := of_decide_eq_true h
  have hv := halfBytes_value rxb.length hl
  simp [fullLength, encode, halfBytes]
  omega

theorem Encodable.modeNormal : Encodable.Statement (.modeNormal) := fun _ _ => rfl
theorem Encodable.modeWor : Encodable.Statement (.modeWor) := fun _ _ => rfl
theorem Encodable.modeConfig : Encodable.Statement (.modeConfig) := fun _ _ => rfl
theorem Encodable.modeSleep : Encodable.Statement (.modeSleep) := fun _ _ => rfl
theorem Encodable.setPoll (us : Word) : Encodable.Statement (.setPoll us) := fun _ _ => rfl
theorem Encodable.regRead (addr len : Byte) : Encodable.Statement (.regRead addr len) := fun _ _ => rfl
theorem Encodable.rssiRead (addr len : Byte) : Encodable.Statement (.rssiRead addr len) := fun _ _ => rfl
theorem Encodable.eepromWrite : Encodable.Statement (.eepromWrite) := fun _ _ => rfl
theorem Encodable.eepromRead : Encodable.Statement (.eepromRead) := fun _ _ => rfl
theorem Encodable.noiseInit : Encodable.Statement (.noiseInit) := fun _ _ => rfl
theorem Encodable.tlmReset : Encodable.Statement (.tlmReset) := fun _ _ => rfl
theorem Encodable.txSegInc : Encodable.Statement (.txSegInc) := fun _ _ => rfl
theorem Encodable.tlmGet : Encodable.Statement (.tlmGet) := fun _ _ => rfl
theorem Encodable.getRecord : Encodable.Statement (.getRecord) := fun _ _ => rfl
theorem Encodable.setRecord (img : Image) : Encodable.Statement (.setRecord img) := fun _ _ => rfl
theorem Encodable.l2cBaud (label : Word) : Encodable.Statement (.l2cBaud label) := fun _ _ => rfl
theorem Encodable.l2cParity (label : Word) : Encodable.Statement (.l2cParity label) := fun _ _ => rfl
theorem Encodable.l2cAir (label : Word) : Encodable.Statement (.l2cAir label) := fun _ _ => rfl
theorem Encodable.l2cPacket (label : Word) : Encodable.Statement (.l2cPacket label) := fun _ _ => rfl
theorem Encodable.l2cPower (label : Word) : Encodable.Statement (.l2cPower label) := fun _ _ => rfl
theorem Encodable.l2cWor (label : Word) : Encodable.Statement (.l2cWor label) := fun _ _ => rfl
theorem Encodable.c2lBaud (code : Byte) : Encodable.Statement (.c2lBaud code) := fun _ _ => rfl
theorem Encodable.c2lParity (code : Byte) : Encodable.Statement (.c2lParity code) := fun _ _ => rfl
theorem Encodable.c2lAir (code : Byte) : Encodable.Statement (.c2lAir code) := fun _ _ => rfl
theorem Encodable.c2lPacket (code : Byte) : Encodable.Statement (.c2lPacket code) := fun _ _ => rfl
theorem Encodable.c2lPower (code : Byte) : Encodable.Statement (.c2lPower code) := fun _ _ => rfl
theorem Encodable.c2lWor (code : Byte) : Encodable.Statement (.c2lWor code) := fun _ _ => rfl
theorem Encodable.c2nBaud (code : Byte) : Encodable.Statement (.c2nBaud code) := fun _ _ => rfl
theorem Encodable.c2nParity (code : Byte) : Encodable.Statement (.c2nParity code) := fun _ _ => rfl
theorem Encodable.setAddr (v : Half) : Encodable.Statement (.setAddr v) := fun _ _ => rfl
theorem Encodable.setNetid (v : Byte) : Encodable.Statement (.setNetid v) := fun _ _ => rfl
theorem Encodable.setBaud (v : Byte) : Encodable.Statement (.setBaud v) := fun _ _ => rfl
theorem Encodable.setAir (v : Byte) : Encodable.Statement (.setAir v) := fun _ _ => rfl
theorem Encodable.setParity (v : Byte) : Encodable.Statement (.setParity v) := fun _ _ => rfl
theorem Encodable.setPacket (v : Byte) : Encodable.Statement (.setPacket v) := fun _ _ => rfl
theorem Encodable.setPower (v : Byte) : Encodable.Statement (.setPower v) := fun _ _ => rfl
theorem Encodable.setChannel (v : Byte) : Encodable.Statement (.setChannel v) := fun _ _ => rfl
theorem Encodable.setKey (v : Half) : Encodable.Statement (.setKey v) := fun _ _ => rfl
theorem Encodable.setNoiseEn (v : Byte) : Encodable.Statement (.setNoiseEn v) := fun _ _ => rfl
theorem Encodable.setRssiEn (v : Byte) : Encodable.Statement (.setRssiEn v) := fun _ _ => rfl
theorem Encodable.setFixed (v : Byte) : Encodable.Statement (.setFixed v) := fun _ _ => rfl
theorem Encodable.setRepeater (v : Byte) : Encodable.Statement (.setRepeater v) := fun _ _ => rfl
theorem Encodable.setLbt (v : Byte) : Encodable.Statement (.setLbt v) := fun _ _ => rfl
theorem Encodable.setWor (v : Byte) : Encodable.Statement (.setWor v) := fun _ _ => rfl
theorem Encodable.setWorCycle (v : Byte) : Encodable.Statement (.setWorCycle v) := fun _ _ => rfl
theorem Encodable.commitAddr (v : Half) : Encodable.Statement (.commitAddr v) := fun _ _ => rfl
theorem Encodable.commitNetid (v : Byte) : Encodable.Statement (.commitNetid v) := fun _ _ => rfl
theorem Encodable.commitBaud (v : Byte) : Encodable.Statement (.commitBaud v) := fun _ _ => rfl
theorem Encodable.commitAir (v : Byte) : Encodable.Statement (.commitAir v) := fun _ _ => rfl
theorem Encodable.commitParity (v : Byte) : Encodable.Statement (.commitParity v) := fun _ _ => rfl
theorem Encodable.commitPacket (v : Byte) : Encodable.Statement (.commitPacket v) := fun _ _ => rfl
theorem Encodable.commitPower (v : Byte) : Encodable.Statement (.commitPower v) := fun _ _ => rfl
theorem Encodable.commitChannel (v : Byte) : Encodable.Statement (.commitChannel v) := fun _ _ => rfl
theorem Encodable.commitKey (v : Half) : Encodable.Statement (.commitKey v) := fun _ _ => rfl
theorem Encodable.commitNoiseEn (v : Byte) : Encodable.Statement (.commitNoiseEn v) := fun _ _ => rfl
theorem Encodable.commitRssiEn (v : Byte) : Encodable.Statement (.commitRssiEn v) := fun _ _ => rfl
theorem Encodable.commitFixed (v : Byte) : Encodable.Statement (.commitFixed v) := fun _ _ => rfl
theorem Encodable.commitRepeater (v : Byte) : Encodable.Statement (.commitRepeater v) := fun _ _ => rfl
theorem Encodable.commitLbt (v : Byte) : Encodable.Statement (.commitLbt v) := fun _ _ => rfl
theorem Encodable.commitWor (v : Byte) : Encodable.Statement (.commitWor v) := fun _ _ => rfl
theorem Encodable.commitWorCycle (v : Byte) : Encodable.Statement (.commitWorCycle v) := fun _ _ => rfl

end Sys2Proof.Laws
end

