-- ==== Sys2Proof/Tests/Slice0.lean ====
section
/-!
SUPPORT. Tests: ill-formed terms, a packet or frame for every instruction, single steps against the vectors of
spec/95_test_vectors.md (named in the comments), and a witness for every statement that has hypotheses.
-/

namespace Sys2Proof.Tests

open Sys2Proof Sys2Proof.Machine

/-! ### WellFormed: what each check refuses -/

theorem test_wf_w_needs_valid_span : (Instr.wireW 0x08 [1, 2]).wellFormed = false := by decide
theorem test_wf_w_needs_data : (Instr.wireW 0x05 []).wellFormed = false := by decide
theorem test_wf_r_needs_valid_span : (Instr.wireR 0x82 6).wellFormed = false := by decide
theorem test_wf_q_needs_valid_span : (Instr.wireQ 1 2).wellFormed = false := by decide
theorem test_wf_reply_needs_data : (Instr.wireReply 0xC1 0 0 []).wellFormed = false := by decide
theorem test_wf_reply_has_nine_bytes_at_most :
    (Instr.wireReply 0xC1 0 9 (List.replicate 10 0)).wellFormed = false := by decide
theorem test_wf_regWrite_length_is_one_byte :
    (Instr.regWrite 0 (List.replicate 256 0)).wellFormed = false := by
  simp only [Instr.wellFormed, List.length_replicate]; rfl
theorem test_wf_tlmExtract_length_is_two_bytes :
    (Instr.tlmExtract (List.replicate 65536 0)).wellFormed = false := by
  simp only [Instr.wellFormed, List.length_replicate]; rfl

/-! ### Decode: a packet or frame of every instruction, written from R102 to R105 and R122 -/

theorem test_decode_wire :
    decode .request [0xC0, 0x05, 0x01, 0x17] = .ok (.wireW 0x05 [0x17]) ∧
    decode .request [0xC1, 0x80, 0x07] = .ok (.wireR 0x80 7) ∧
    decode .request [0xC0, 0xC1, 0xC2, 0xC3, 0x01, 0x01] = .ok (.wireQ 1 1) ∧
    decode .reply [0xC1, 0x05, 0x01, 0x17] = .ok (.wireReply 0xC1 0x05 0x01 [0x17]) := by decide

theorem test_decode_modes :
    decode .host [0x00] = .ok .modeNormal ∧ decode .host [0x01] = .ok .modeWor ∧
    decode .host [0x02] = .ok .modeConfig ∧ decode .host [0x03] = .ok .modeSleep ∧
    decode .host [0x08, 0x00, 0x00, 0x00, 0xFA] = .ok (.setPoll 250) := by decide

theorem test_decode_transport :
    decode .host [0x10, 0x05, 0x01, 0x17] = .ok (.regWrite 0x05 [0x17]) ∧
    decode .host [0x11, 0x80, 0x07] = .ok (.regRead 0x80 7) ∧
    decode .host [0x12, 0x00, 0x01] = .ok (.rssiRead 0 1) ∧
    decode .host [0x13] = .ok .eepromWrite ∧ decode .host [0x14] = .ok .eepromRead ∧
    decode .host [0x15] = .ok .noiseInit := by decide

theorem test_decode_telemetry_and_record :
    decode .host [0x20, 0x00, 0x03, 0x48, 0x49, 0x0A] = .ok (.tlmExtract [0x48, 0x49, 0x0A]) ∧
    decode .host [0x21] = .ok .tlmReset ∧ decode .host [0x22] = .ok .txSegInc ∧
    decode .host [0x23] = .ok .tlmGet ∧ decode .host [0x30] = .ok .getRecord ∧
    decode .host [0x31, 0x12, 0x34, 0x56, 0xF7, 0xE3, 0x50, 0xD7, 0xBE, 0xEF] =
      .ok (.setRecord ⟨0x12, 0x34, 0x56, 0xF7, 0xE3, 0x50, 0xD7, 0xBE, 0xEF⟩) := by decide

theorem test_decode_tables :
    decode .host [0x40, 0x00, 0x00, 0x01, 0xC2, 0x00] = .ok (.l2cBaud 115200) ∧
    decode .host [0x40, 0x01, 0x00, 0x00, 0x00, 0x07] = .ok (.l2cParity 7) ∧
    decode .host [0x40, 0x02, 0x00, 0x00, 0x03, 0xE8] = .ok (.l2cAir 1000) ∧
    decode .host [0x40, 0x03, 0x00, 0x00, 0x00, 0x64] = .ok (.l2cPacket 100) ∧
    decode .host [0x40, 0x04, 0x00, 0x00, 0x00, 0x14] = .ok (.l2cPower 20) ∧
    decode .host [0x40, 0x05, 0x00, 0x00, 0x02, 0xEE] = .ok (.l2cWor 750) ∧
    decode .host [0x41, 0x00, 0x07] = .ok (.c2lBaud 7) ∧
    decode .host [0x41, 0x01, 0x03] = .ok (.c2lParity 3) ∧
    decode .host [0x41, 0x02, 0x02] = .ok (.c2lAir 2) ∧
    decode .host [0x41, 0x03, 0x01] = .ok (.c2lPacket 1) ∧
    decode .host [0x41, 0x04, 0x03] = .ok (.c2lPower 3) ∧
    decode .host [0x41, 0x05, 0x03] = .ok (.c2lWor 3) ∧
    decode .host [0x42, 0x00, 0x03] = .ok (.c2nBaud 3) ∧
    decode .host [0x42, 0x01, 0x03] = .ok (.c2nParity 3) := by decide

theorem test_decode_setters :
    decode .host [0x60, 0x12, 0x34] = .ok (.setAddr 0x1234) ∧
    decode .host [0x61, 0x56] = .ok (.setNetid 0x56) ∧ decode .host [0x62, 0x07] = .ok (.setBaud 7) ∧
    decode .host [0x63, 0x02] = .ok (.setAir 2) ∧ decode .host [0x64, 0x02] = .ok (.setParity 2) ∧
    decode .host [0x65, 0x03] = .ok (.setPacket 3) ∧ decode .host [0x66, 0x03] = .ok (.setPower 3) ∧
    decode .host [0x67, 0x17] = .ok (.setChannel 0x17) ∧
    decode .host [0x68, 0xBE, 0xEF] = .ok (.setKey 0xBEEF) ∧
    decode .host [0x69, 0x01] = .ok (.setNoiseEn 1) ∧ decode .host [0x6A, 0x01] = .ok (.setRssiEn 1) ∧
    decode .host [0x6B, 0x01] = .ok (.setFixed 1) ∧ decode .host [0x6C, 0x00] = .ok (.setRepeater 0) ∧
    decode .host [0x6D, 0x01] = .ok (.setLbt 1) ∧ decode .host [0x6E, 0x01] = .ok (.setWor 1) ∧
    decode .host [0x6F, 0x07] = .ok (.setWorCycle 7) := by decide

theorem test_decode_commits :
    decode .host [0x70, 0x12, 0x34] = .ok (.commitAddr 0x1234) ∧
    decode .host [0x71, 0x56] = .ok (.commitNetid 0x56) ∧
    decode .host [0x72, 0x07] = .ok (.commitBaud 7) ∧ decode .host [0x73, 0x02] = .ok (.commitAir 2) ∧
    decode .host [0x74, 0x02] = .ok (.commitParity 2) ∧
    decode .host [0x75, 0x03] = .ok (.commitPacket 3) ∧
    decode .host [0x76, 0x03] = .ok (.commitPower 3) ∧
    decode .host [0x77, 0x17] = .ok (.commitChannel 0x17) ∧
    decode .host [0x78, 0xBE, 0xEF] = .ok (.commitKey 0xBEEF) ∧
    decode .host [0x79, 0x01] = .ok (.commitNoiseEn 1) ∧
    decode .host [0x7A, 0x01] = .ok (.commitRssiEn 1) ∧
    decode .host [0x7B, 0x01] = .ok (.commitFixed 1) ∧
    decode .host [0x7C, 0x00] = .ok (.commitRepeater 0) ∧
    decode .host [0x7D, 0x01] = .ok (.commitLbt 1) ∧ decode .host [0x7E, 0x01] = .ok (.commitWor 1) ∧
    decode .host [0x7F, 0x07] = .ok (.commitWorCycle 7) := by decide

/-- Rows of spec/opcode_table.json as the table numbers their bits (log 7). -/
theorem test_table_words :
    decodeTableWord 8 0x77 = some (.commitChannel 0) ∧ decodeTableWord 16 0x4001 = some (.l2cParity 0) ∧
    decodeTableWord 32 0xC0C1C2C3 = some (.wireQ 0 0) ∧ decodeTableWord 8 0xC1 = some (.wireR 0 0) ∧
    decodeTableWord 0 0 = some (.wireReply 0 0 0 [0]) ∧ decodeTableWord 8 0x99 = none := by decide

theorem test_decode_refuses_by_name :
    decode .host [] = .error .empty ∧ decode .host [0x99] = .error (.unknownOpcode 0x99) ∧
    decode .host [0x60, 0x12] = .error (.badLength 0x60) ∧
    decode .host [0x42, 0x02, 0x00] = .error (.badTable 0x42 2) ∧
    decode .request [0xC2, 0x00, 0x01] = .error .notAFrame ∧
    decode .reply [0xC1, 0x05, 0x01] = .error .notAReply := by decide

/-! ### Single steps -/

/-- The newest response after a step. -/
def response : Host.Outcome State Fault Refusal → Option (List Byte)
  | .next t => t.responses.head?
  | .fault _ => none
  | .refused _ => none

/-- A condition on the next state. -/
def holdsNext (p : State → Bool) : Host.Outcome State Fault Refusal → Bool
  | .next t => p t
  | .fault _ => false
  | .refused _ => false

/-- The reset state with a packet offered. -/
def offering (packet : List Byte) : State := { State.reset with hostCmds := [packet] }

/-- A running operation at a place, in the reset state. -/
def running (i : Instr) (loc : Loc) : State := { State.reset with phase := .run i loc }

/-- K1, K4 to K10. -/
theorem test_l2c :
    response (exec (.l2cBaud 115200) .reset) = some [0, 7] ∧
    response (exec (.l2cBaud 9601) .reset) = some [0, 3] ∧
    response (exec (.l2cParity 7) .reset) = some [0, 0] ∧
    response (exec (.l2cAir 1000) .reset) = some [0, 2] ∧
    response (exec (.l2cPacket 100) .reset) = some [0, 3] ∧
    response (exec (.l2cPower 20) .reset) = some [0, 0] ∧
    response (exec (.l2cWor 750) .reset) = some [0, 3] ∧
    response (exec (.l2cWor 2000) .reset) = some [0, 3] := by decide

/-- K2, K3 and the examples of R153 to R156; K11 to K16. -/
theorem test_c2l_c2n :
    response (exec (.c2lBaud 7) .reset) = some [0, 1, 0x00, 0x01, 0xC2, 0x00] ∧
    response (exec (.c2lWor 3) .reset) = some [0, 1, 0x00, 0x00, 0x07, 0xD0] ∧
    response (exec (.c2lParity 1) .reset) = some [0, 1, 0, 0, 0, 1] ∧
    response (exec (.c2lPacket 0) .reset) = some [0, 1, 0, 0, 0, 240] ∧
    response (exec (.c2nBaud 3) .reset) = some [0, 3] ∧
    response (exec (.c2nBaud 9) .reset) = some [0, 0xFF] ∧
    response (exec (.c2nParity 3) .reset) = some [0, 0xFF] ∧
    response (step (offering [0x42, 0x02, 0x00])) = some [1] ∧
    response (step (offering [0x40, 0x06, 0, 0, 0, 0])) = some [1] := by decide

theorem test_c2l_miss : (response (exec (.c2lParity 3) .reset)).map (·.take 2) = some [0, 0] := rfl

/-- The conditions of R144 on the default CODEC. -/
theorem test_codec_wf : codecWf codec = true := by decide

/-- The record of E2. -/
def recordE2 : Record where
  addr := 0x1234
  netid := 0x56
  baud := 7
  air := 7
  parity := 2
  packet := 3
  power := 3
  channel := 0x50
  key := 0xBEEF
  noiseEn := true
  rssiEn := true
  fixed := true
  repeater := false
  lbt := true
  wor := false
  worCycle := 7

/-- E1, E2, E5, E6, E7. -/
theorem test_encode_image :
    imageBytes (encodeRecord recordReset) = [0x00, 0x00, 0x00, 0x62, 0x00, 0x32, 0x03, 0x00, 0x00] ∧
    imageBytes (encodeRecord recordE2) = [0x12, 0x34, 0x56, 0xF7, 0xE3, 0x50, 0xD7, 0xBE, 0xEF] ∧
    imageBytes (encodeRecord { recordReset with noiseEn := true, rssiEn := true }) =
      [0x00, 0x00, 0x00, 0x62, 0x20, 0x32, 0x83, 0x00, 0x00] ∧
    imageBytes (encodeRecord { recordReset with wor := true, worCycle := 0 }) =
      [0x00, 0x00, 0x00, 0x62, 0x00, 0x32, 0x08, 0x00, 0x00] ∧
    imageBytes (encodeRecord (decodeRecord ⟨255, 255, 255, 255, 255, 255, 255, 255, 255⟩)) =
      [0xFF, 0xFF, 0xFF, 0xFF, 0xE3, 0xFF, 0xFF, 0xFF, 0xFF] := by decide

/-- E8 to E12, E14, and the setters' examples. -/
theorem test_setters :
    response (exec (.setBaud 8) .reset) = some [1] ∧ response (exec (.setRssiEn 2) .reset) = some [1] ∧
    holdsNext (fun t => decide (t.record.channel = 0xC8)) (exec (.setChannel 0xC8) .reset) ∧
    holdsNext (fun t => decide (t.record.addr = 0x1234)) (exec (.setAddr 0x1234) .reset) ∧
    holdsNext (fun t => decide (t.record = recordE2))
      (exec (.setRecord ⟨0x12, 0x34, 0x56, 0xF7, 0xE3, 0x50, 0xD7, 0xBE, 0xEF⟩) .reset) ∧
    holdsNext (fun t => decide (t.record = { recordReset with parity := 3 }))
      (exec (.setParity 3) .reset) ∧
    holdsNext (fun t => decide (t.record = { recordReset with wor := true })) (exec (.setWor 1) .reset) ∧
    response (step (offering [0x60, 0x12])) = some [1] := by decide

theorem test_get_record : (response (exec .getRecord .reset)).map (·.take 11) =
    some [0, 0x00, 0x00, 0x00, 0x62, 0x00, 0x32, 0x03, 0x00, 0x00, 0] := rfl

/-- M1 to M4: the first port event waits for step 2, and BUSY not ready keeps the step (M5). -/
theorem test_mode_poll :
    holdsNext (fun t => decide (t.phase = .run .modeConfig ⟨1, [], some 2⟩ ∧ t.trace = []))
      (exec .modeConfig .reset) ∧
    holdsNext (fun t => decide (t.phase = .run .modeConfig ⟨1, [], some 2⟩ ∧
        t.trace = [⟨.dly 100, .none⟩, ⟨.gRd, .lvl false⟩]))
      (exec .modeConfig
        { running .modeConfig ⟨1, [], some 2⟩ with busyIn := [.lvl false] }) := by decide

/-- M2, M3, M4: the levels of select-A; M7: a failed write keeps the latch. -/
theorem test_mode_drive :
    holdsNext (fun t => t.mA) (exec .modeWor
      { running .modeWor ⟨1, [], some 3⟩ with ackIn := [.ok] }) ∧
    holdsNext (fun t => !t.mA) (exec .modeNormal
      { running .modeNormal ⟨1, [], some 3⟩ with ackIn := [.ok], mA := true }) ∧
    holdsNext (fun t => t.mB) (exec .modeSleep
      { running .modeSleep ⟨1, [], some 4⟩ with ackIn := [.ok] }) ∧
    holdsNext (fun t => decide (t.mB = false ∧ t.responses = [[3]] ∧ t.phase = .idle)) (exec .modeSleep
      { running .modeSleep ⟨1, [], some 4⟩ with ackIn := [.err] }) := by decide

/-- M6, M12, M13. -/
theorem test_mode_uart_and_poll_interval :
    holdsNext (fun t => decide (t.tb = 7 ∧ t.tp = 2))
      (exec .modeNormal { State.reset with record := recordE2 }) ∧
    holdsNext (fun t => decide (t.pollInterval = 250)) (exec (.setPoll 250) .reset) ∧
    response (step (offering [0x08, 0x00, 0x00, 0xFA])) = some [1] := by decide

/-- E15: parity code 3 has no native identifier. -/
theorem test_mode_codec_miss :
    response (exec .modeNormal { State.reset with record := { recordReset with parity := 3 } }) =
      some [1] := by decide

/-- W1 (the frame), W3 (data differs), W2 (byte 0 not compared). -/
theorem test_reg_write_steps :
    holdsNext (fun t => decide (t.txf = [0xC0, 0x05, 0x01, 0x17]))
      (exec (.regWrite 0x05 [0x17]) (running (.regWrite 0x05 [0x17]) ⟨4, [], none⟩)) ∧
    response (exec (.regWrite 0x05 [0x17])
      { running (.regWrite 0x05 [0x17]) ⟨9, [], none⟩ with
        txf := [0xC0, 0x05, 0x01, 0x17], rxf := [0xC1, 0x05, 0x01, 0x18] }) = some [4] ∧
    holdsNext (fun t => decide (t.phase = .run (.regWrite 0x05 [0x17]) ⟨10, [], some 1⟩))
      (exec (.regWrite 0x05 [0x17])
        { running (.regWrite 0x05 [0x17]) ⟨9, [], none⟩ with
          txf := [0xC0, 0x05, 0x01, 0x17], rxf := [0xFF, 0x05, 0x01, 0x17] }) := by decide

/-- W6 (short count), W5 (three bytes come back), W9 (`len = 0`), W8 (address). -/
theorem test_reg_write_faults :
    response (exec (.regWrite 0x05 [0x17])
      { running (.regWrite 0x05 [0x17]) ⟨5, [], none⟩ with
        txf := [0xC0, 0x05, 0x01, 0x17], countIn := [.cnt 2] }) = some [3] ∧
    response (exec (.regWrite 0x05 [0x17])
      { running (.regWrite 0x05 [0x17]) ⟨7, [], none⟩ with
        txf := [0xC0, 0x05, 0x01, 0x17], readIn := [.bytes [0xC1, 0x05, 0x01]] }) = some [4] ∧
    response (exec (.regWrite 0x05 []) .reset) = some [1] ∧
    response (exec (.regWrite 0x08 [1, 2]) (running (.regWrite 0x08 [1, 2]) ⟨2, [], none⟩)) =
      some [2] := by decide

/-- R3 (header not checked), R6 (no wrap), Q4, Q5. -/
theorem test_reads :
    response (exec (.regRead 0x05 1)
      { running (.regRead 0x05 1) ⟨9, [], none⟩ with rxf := [0xFF, 0xFF, 0xFF, 0x32] }) =
      some [0, 0x32] ∧
    response (exec (.regRead 0xFF 2) (running (.regRead 0xFF 2) ⟨2, [], none⟩)) = some [2] ∧
    response (exec (.rssiRead 1 2) (running (.rssiRead 1 2) ⟨2, [], none⟩)) = some [2] ∧
    response (exec (.rssiRead 0 0) .reset) = some [1] ∧
    holdsNext (fun t => decide (t.txf = [0xC0, 0xC1, 0xC2, 0xC3, 0x00, 0x01]))
      (exec (.rssiRead 0 1) (running (.rssiRead 0 1) ⟨4, [], none⟩)) := by decide

/-- P2: the commit frame; P3: EEPROM_READ's step 3 and NOISE_INIT's step 2. -/
theorem test_eeprom_and_noise :
    holdsNext (fun t => decide (t.img = encodeRecord recordReset)) (exec .eepromWrite .reset) ∧
    holdsNext (fun t => decide (t.txf =
        [0xC0, 0x00, 0x09, 0x12, 0x34, 0x56, 0xF7, 0xE3, 0x50, 0xD7, 0xBE, 0xEF]))
      (exec .eepromWrite { running .eepromWrite ⟨2, [4], none⟩ with img := encodeRecord recordE2 }) ∧
    holdsNext (fun t => decide (t.record = recordE2 ∧
        t.pid = some ⟨0x00, 0x22, 0x10, 0x0B, 0x00, 0x16, 0x00⟩))
      (exec .eepromRead { running .eepromRead ⟨3, [], none⟩ with
        img := encodeRecord recordE2
        rxf := [0xC1, 0x80, 0x07, 0x00, 0x22, 0x10, 0x0B, 0x00, 0x16, 0x00] }) ∧
    holdsNext (fun t => decide (t.floor = some 0xC8))
      (exec .noiseInit { running .noiseInit ⟨2, [], none⟩ with rxf := [0xC1, 0x00, 0x01, 0xC8] }) := by
  decide

/-- P2, P4: what a set-and-commit stages and writes; R196: the operand check comes first. -/
theorem test_commits :
    holdsNext (fun t => decide (t.staged = { recordReset with channel := 0x17 } ∧ t.record = recordReset))
      (exec (.commitChannel 0x17) (running (.commitChannel 0x17) ⟨2, [], none⟩)) ∧
    holdsNext (fun t => decide (t.record = recordE2))
      (exec (.commitPower 3)
        { running (.commitPower 3) ⟨3, [3], none⟩ with staged := recordE2 }) ∧
    response (exec (.commitBaud 8) .reset) = some [1] ∧
    response (exec (.commitLbt 2) .reset) = some [1] := by decide

/-- W1, R1, Q1 as exchanges on their own, and a reply's arrival. -/
theorem test_wire_rows :
    holdsNext (fun t => decide (t.txf = [0xC0, 0x05, 0x01, 0x17]))
      (exec (.wireW 0x05 [0x17]) (running (.wireW 0x05 [0x17]) ⟨4, [], none⟩)) ∧
    holdsNext (fun t => decide (t.txf = [0xC1, 0x80, 0x07])) (exec (.wireR 0x80 7) .reset) ∧
    holdsNext (fun t => decide (t.txf = [0xC0, 0xC1, 0xC2, 0xC3, 0x00, 0x01]))
      (exec (.wireQ 0 1) .reset) ∧
    holdsNext (fun t => decide (t.rxf = [0xC1, 0x00, 0x01, 0xC8] ∧ t.responses = [[0, 0xC8]]))
      (exec (.wireReply 0xC1 0x00 0x01 [0xC8]) .reset) := by decide

/-- The reference instance with delimiter 0x0A and MAX_SEG 8. -/
def reference : ExtractParams := ⟨segEndByDelim 0x0A, 8, true⟩

/-- T1 and T8 (with its tail). -/
theorem test_extract :
    extract reference false 0 [0x48, 0x49, 0x0A, 0x50, 0x4A, 0x4B, 0x0A, 0x60] =
      { expect := false, start := none, payload := [0x48, 0x49, 0x0A, 0x4A, 0x4B, 0x0A]
        smp := [0x50, 0x60], seg := [⟨0, 2⟩, ⟨4, 6⟩], overflow := false, rxSegments := 2 } ∧
    cursorTail (extract reference false 0 [0x48, 0x0A, 0x50, 0x49]) 4 = some ⟨3, 3⟩ := by decide

/-- T3b, T3b', T4, T7. -/
theorem test_extract_corners :
    (extract reference true 0 [0x50, 0x4A, 0x0A]).smp = [0x50] ∧
    (extract { reference with carryRecorded := false } true 0 [0x50, 0x4A, 0x0A]).smp = [] ∧
    (extract reference false 0 [0x0A, 0x0A, 0x0A, 0x0A]).seg = [⟨0, 0⟩, ⟨2, 2⟩] ∧
    (extract { reference with maxSeg := 2 } false 0
        [0x41, 0x0A, 0x11, 0x42, 0x0A, 0x22, 0x43, 0x0A, 0x33]) =
      { expect := false, start := none, payload := [0x41, 0x0A, 0x42, 0x0A, 0x43, 0x0A]
        smp := [0x11, 0x22], seg := [⟨0, 1⟩, ⟨3, 4⟩], overflow := true, rxSegments := 3 } := by decide

/-- R304 step 4 (the tail of T8), step 5 with an overflow before it (R310, R311), step 6. -/
theorem test_tlm_extract_steps :
    holdsNext (fun t => decide (t.tail = some ⟨3, 3⟩ ∧
        t.phase = .run (.tlmExtract [0x48, 0x0A, 0x50, 0x49]) ⟨5, [], none⟩))
      (exec (.tlmExtract [0x48, 0x0A, 0x50, 0x49])
        { running (.tlmExtract [0x48, 0x0A, 0x50, 0x49]) ⟨4, [], none⟩ with
          scan := ⟨[0x48, 0x0A, 0x49], false, false, some 3⟩ }) ∧
    holdsNext (fun t => decide (t.diag = 0b11 ∧ t.tlmCarry = false))
      (exec (.tlmExtract [0x0A])
        { running (.tlmExtract [0x0A]) ⟨5, [], none⟩ with diag := 0b10, scan := ⟨[0x0A], true, false, none⟩ }) ∧
    holdsNext (fun t => t.tlmCarry)
      (exec (.tlmExtract [0x0A])
        { running (.tlmExtract [0x0A]) ⟨6, [], none⟩ with scan := ⟨[0x0A], true, false, none⟩ }) := by decide

/-- R304 steps 1 and 2: what is cleared, and what the carry sets. -/
theorem test_tlm_extract_begin :
    holdsNext (fun t => decide (t.smp = [] ∧ t.tail = none ∧ t.diag = 0 ∧ t.scan.payload = []))
      (exec (.tlmExtract [0x50])
        { running (.tlmExtract [0x50]) ⟨1, [], none⟩ with smp := [1], tail := some ⟨0, 0⟩, diag := 3 }) ∧
    holdsNext (fun t => t.scan.expect && t.scan.carryIn)
      (exec (.tlmExtract [0x50]) { running (.tlmExtract [0x50]) ⟨2, [], none⟩ with tlmCarry := true }) := by
  decide

/-- R304 step 7 and R48: the answer in the layout of R122, and nothing kept of the buffer. -/
theorem test_tlm_extract_end :
    holdsNext (fun t => decide (t.scan = scanEmpty ∧ t.phase = .idle ∧
        t.responses = [[0, 0, 2, 0x48, 0x0A, 1, 0x50, 0, 0]]))
      (exec (.tlmExtract [0x48, 0x0A, 0x50])
        { running (.tlmExtract [0x48, 0x0A, 0x50]) ⟨7, [], none⟩ with
          smp := [0x50], scan := ⟨[0x48, 0x0A], false, false, none⟩ }) := by decide

/-- R353: a failed `U_CFG` leaves the old setting, no longer known to hold (R62). -/
theorem test_uart_fault :
    holdsNext (fun t => decide (t.uartCfg = some (3, 0) ∧ t.uartCfgKnown = false ∧ t.responses = [[3]]))
      (exec .modeConfig
        { running .modeConfig ⟨1, [], some 5⟩ with
          ackIn := [.err], uartCfg := some (3, 0), uartCfgKnown := true, tb := 7 }) := by decide

/-- V12, `20 00 00`, R321. -/
theorem test_counters :
    holdsNext (fun t => decide (t.txSegments = 0))
      (exec .txSegInc { State.reset with txSegments := 0xFFFFFFFF }) ∧
    response (exec (.tlmExtract []) .reset) = some [1] ∧
    holdsNext (fun t => decide (t.rxSegments = 0 ∧ t.floor = some 7 ∧ t.smp = []))
      (exec .tlmReset { State.reset with rxSegments := 9, floor := some 7, smp := [1] }) := by decide

/-- The `TLM_GET` response of P3 up to its bytes without value. -/
theorem test_tlm_get : (response (exec .tlmGet { State.reset with
      rxSegments := 2, floor := some 0xC8, smp := [0x50, 0x60], seg := [⟨0, 2⟩, ⟨4, 6⟩] })).map
        (·.take 24) =
    some [0, 0, 0, 0, 2, 0, 0, 0, 0, 1, 0xC8, 2, 0x50, 0x60, 2, 0, 0, 0, 2, 0, 4, 0, 6, 0] := rfl

/-- V3, V5, V6, V9, V11. -/
theorem test_values :
    dbm 0x50 = -40 ∧ dbm 0xC8 = -100 ∧ snr (dbm 0x50) (dbm 0xC8) = some (2 / 5) ∧
    snr (dbm 0x50) (dbm 0x00) = none ∧ snr 2 4 = some (1 / 2) := by
  have h1 : ((0x50 : Byte).toNat : Rat) = 80 := by rfl
  have h2 : ((0xC8 : Byte).toNat : Rat) = 200 := by rfl
  have h3 : ((0x00 : Byte).toNat : Rat) = 0 := by rfl
  simp only [dbm, snr, h1, h2, h3]
  norm_num

/-- R380: reset in the middle of an operation, without a response. -/
theorem test_reset_abandons : holdsNext (fun t => decide (t.phase = .idle ∧ t.responses = [] ∧
      t.record = recordReset))
    (step { running .eepromRead ⟨3, [], none⟩ with resetPin := [true], record := recordE2 }) := by decide

/-! ### Witnesses: concrete states and operands that meet the hypotheses of the statements, clause by clause -/

theorem witness_DecodeEncodeHost :
    (Instr.regWrite 0xFF (List.replicate 255 0)).wellFormed = true ∧
    (Instr.regWrite 0xFF (List.replicate 255 0)).space = .host := by
  refine ⟨?_, rfl⟩
  simp only [Instr.wellFormed, List.length_replicate]; rfl

theorem witness_DecodeEncodeWire :
    (Instr.wireW 0x00 [1, 2, 3, 4, 5, 6, 7, 8, 9]).wellFormed = true ∧
    (Instr.wireR 0x80 7).wellFormed = true ∧ (Instr.wireQ 0 2).wellFormed = true ∧
    (Instr.wireReply 0xC1 0 9 [1, 2, 3, 4, 5, 6, 7, 8, 9]).wellFormed = true ∧
    (Instr.wireW 0x00 [1]).space ≠ .host ∧ (Instr.wireR 0x80 7).space ≠ .host ∧
    (Instr.wireQ 0 2).space ≠ .host ∧ (Instr.wireReply 0xC1 0 9 [1]).space ≠ .host := by decide

theorem witness_EncodeDecodeHost : decode .host [0x6F, 0xFF] = .ok (.setWorCycle 0xFF) := by decide

/-- An unlisted opcode, wrong byte counts, operands just above their range, table ids, `n = 0`. -/
theorem witness_IllegalPacketsAnsweredOne :
    [[], [0x99], [0x60, 0x12], [0x10, 0x05, 0x02, 0x17], [0x62, 8], [0x74, 4], [0x69, 2], [0x40, 6, 0, 0, 0, 0],
      [0x42, 2, 0], [0x20, 0, 0]].all illegalPacket = true ∧
    resetAsserted (offering [0x99]) = false ∧ (offering [0x99]).phase = .idle ∧
    (offering [0x99]).hostCmds = [[0x99]] := by decide

theorem witness_CodeToLabelResults :
    ((7, 115200) ∈ codec.baud ∧ ∀ row ∈ codec.baud, row.1 ≠ 8) ∧
    ((2, 2) ∈ codec.parity ∧ ∀ row ∈ codec.parity, row.1 ≠ 3) ∧
    ((7, 62500) ∈ codec.air ∧ ∀ row ∈ codec.air, row.1 ≠ 8) ∧
    ((3, 32) ∈ codec.packet ∧ ∀ row ∈ codec.packet, row.1 ≠ 4) ∧
    ((3, 10) ∈ codec.power ∧ ∀ row ∈ codec.power, row.1 ≠ 4) ∧
    ((7, 4000) ∈ codec.wor ∧ ∀ row ∈ codec.wor, row.1 ≠ 8) := by simp [codec]

theorem witness_CodeToNativeResults :
    (∃ label, (7, label) ∈ codec.baud) ∧ (∀ row ∈ codec.baud, row.1 ≠ 8) ∧
    (∃ label, (2, label) ∈ codec.parity) ∧ (∀ row ∈ codec.parity, row.1 ≠ 3) :=
  ⟨⟨115200, by simp [codec]⟩, by simp [codec], ⟨2, by simp [codec]⟩, by simp [codec]⟩

theorem witness_CodecRoundTrips : codecWf codec = true ∧
    (codec.packet, packetDefault) ∈ [(codec.baud, baudDefault), (codec.parity, parityDefault),
      (codec.air, airDefault), (codec.packet, packetDefault), (codec.power, powerDefault),
      (codec.wor, worDefault)] ∧ ((0, 240) : Byte × Word) ∈ codec.packet := by decide

theorem witness_GetRecordResult :
    { State.reset with pid := some ⟨0, 0x22, 0x10, 0x0B, 0, 0x16, 0⟩ }.pid =
      some ⟨0, 0x22, 0x10, 0x0B, 0, 0x16, 0⟩ ∧ State.reset.pid = none := by decide

theorem witness_setters_at_their_bounds :
    (7 : Byte).toNat ≤ 7 ∧ 7 < (8 : Byte).toNat ∧ (3 : Byte).toNat ≤ 3 ∧ 3 < (4 : Byte).toNat ∧
    (1 : Byte).toNat ≤ 1 ∧ 1 < (2 : Byte).toNat := by decide

/-- The reset state with answers to come. -/
def answered_by (busy : List BusyAnswer) (acks : List AckAnswer) (counts : List CountAnswer)
    (reads : List ReadAnswer) : State :=
  { State.reset with busyIn := busy, ackIn := acks, countIn := counts, readIn := reads }

/-- Answers under which a commit of the record `r` completes. -/
def commitReady (r : Record) : State :=
  answered_by [.lvl true, .lvl true] (List.replicate 9 .ok) [.cnt 12]
    [.bytes (0xC1 :: 0x00 :: 0x09 :: imageBytes (encodeRecord r))]

/-- The hypotheses of `CommitCompletes` for a record. -/
def commitHypotheses (r : Record) : Bool :=
  decide ((commitReady r).phase = .idle ∧
    codeToNative codec.baud (r.baud.setWidth 8) ≠ notFound ∧
    codeToNative codec.parity (r.parity.setWidth 8) ≠ notFound ∧
    (commitReady r).busyIn = .lvl true :: .lvl true :: [] ∧
    (commitReady r).ackIn = List.replicate 9 .ok ++ [] ∧ (commitReady r).countIn = .cnt 12 :: [] ∧
    (commitReady r).readIn =
      .bytes (0xC1 :: 0x00 :: 0x09 :: imageBytes (encodeRecord r)) :: [])

/-- One record for each of the sixteen operations, the operand at the end of its range (parity: the largest code
with a native identifier). -/
theorem witness_SetAndCommitCompletes :
    [{ recordReset with addr := 0xFFFF }, { recordReset with netid := 0xFF },
      { recordReset with baud := 7 }, { recordReset with air := 7 }, { recordReset with parity := 2 },
      { recordReset with packet := 3 }, { recordReset with power := 3 },
      { recordReset with channel := 0xFF }, { recordReset with key := 0xFFFF },
      { recordReset with noiseEn := true }, { recordReset with rssiEn := true },
      { recordReset with fixed := true }, { recordReset with repeater := true },
      { recordReset with lbt := true }, { recordReset with wor := true },
      { recordReset with worCycle := 7 }].all commitHypotheses = true := by decide

theorem witness_CommitPointWritesStaged :
    (running (.commitPower 3) ⟨2, [], none⟩).phase = .run (.commitPower 3) ⟨2, [], none⟩ ∧
    (running (.commitPower 3) ⟨3, [3], none⟩).phase = .run (.commitPower 3) ⟨3, [3], none⟩ ∧
    (running (.commitPower 3) ⟨3, [5], none⟩).phase = .run (.commitPower 3) ⟨3, [5], none⟩ := by decide

/-- The echo of program P4. -/
theorem witness_EchoMismatchKeepsRecord :
    let s := answered_by [.lvl true] (List.replicate 5 .ok) [.cnt 12]
      [.bytes [0xC1, 0, 9, 0, 0, 0, 0x62, 0x00, 0x32, 3, 0, 0]]
    s.phase = .idle ∧ fieldLegal (.power 3) = true ∧ s.busyIn = .lvl true :: [] ∧
    s.ackIn = List.replicate 5 .ok ++ [] ∧ s.countIn = .cnt 12 :: [] ∧
    s.readIn = .bytes [0xC1, 0, 9, 0, 0, 0, 0x62, 0x00, 0x32, 3, 0, 0] :: [] ∧
    ([0, 9, 0, 0, 0, 0x62, 0x00, 0x32, 3, 0, 0] : List Byte) ≠
      0x00 :: 0x09 :: imageBytes (encodeRecord (fieldApply (.power 3) s.record)) := by decide

theorem witness_SetAndCommitKeepsRecordElsewhere :
    (∃ t, exec (commitInstr (.power 3)) (running (.commitPower 3) ⟨3, [4], some 7⟩) = .next t) ∧
    placeOf (running (.commitPower 3) ⟨3, [4], some 7⟩).phase ≠ some ⟨3, [3], none⟩ :=
  ⟨⟨_, rfl⟩, by decide⟩

/-- A setter, a commit point, step 3 of `EEPROM_READ`: each changes the record. -/
theorem witness_RecordHasOnlyItsWriters :
    holdsNext (fun t => decide (t.record ≠ recordReset)) (step (offering [0x62, 7])) ∧
    holdsNext (fun t => decide (t.record ≠ recordReset))
      (step { running (.commitPower 3) ⟨3, [3], none⟩ with staged := recordE2 }) ∧
    holdsNext (fun t => decide (t.record ≠ recordReset))
      (step { running .eepromRead ⟨3, [], none⟩ with rxf := List.replicate 10 0 }) := by decide

theorem witness_ModeOperationsComplete :
    hasNative recordE2 ∧
    (answered_by [.lvl true] [.ok, .ok, .ok, .ok] [] []).phase = .idle ∧
    (answered_by [.lvl true] [.ok, .ok, .ok, .ok] [] []).busyIn = .lvl true :: [] ∧
    (answered_by [.lvl true] [.ok, .ok, .ok, .ok] [] []).ackIn = .ok :: .ok :: .ok :: .ok :: [] := by
  unfold hasNative; decide

/-- A `MODE` operation, and the closing transition of a set-and-commit. -/
theorem witness_TransitionStepsSucceed :
    TransitionAt .modeWor .wor (fun k => ⟨1, [], k⟩) ∧
    TransitionAt (.commitPower 3) .normal (fun k => ⟨3, [4], k⟩) ∧
    { running .modeWor ⟨1, [], some 3⟩ with ackIn := [.ok] }.ackIn = .ok :: [] ∧
    [3, 4, 5, 6].all (fun n => decide ((running .modeWor ⟨1, [], some n⟩).phase =
      .run .modeWor ⟨1, [], some n⟩)) = true :=
  ⟨.mode .wor, .commitClosing (.power 3), by decide⟩

/-- Opening and closing transitions of every transport operation, and the four read rules. -/
theorem witness_TransitionFaultsStopAtTheStep :
    (TransitionAt (.regWrite 5 [0x17]) .config (fun k => ⟨3, [], k⟩) ∧
      TransitionAt .eepromRead .normal (fun k => ⟨2, [8], k⟩) ∧
      TransitionAt (.commitPower 3) .config (fun k => ⟨3, [2, 3], k⟩)) ∧
    (ReadRuleAt (.rssiRead 0 1) 50 ⟨3, [], none⟩ ∧ ReadRuleAt .noiseInit 0 ⟨1, [8], none⟩) ∧
    { running .modeWor ⟨1, [], some 2⟩ with busyIn := [.err] }.busyIn = .err :: [] ∧
    { running .modeWor ⟨1, [], some 3⟩ with ackIn := [.err] }.ackIn = .err :: [] ∧
    [2, 3, 4, 5, 6].all (fun n => decide ((running .modeWor ⟨1, [], some n⟩).phase =
      .run .modeWor ⟨1, [], some n⟩)) = true :=
  ⟨⟨.regWriteOpening 5 [0x17], .eepromReadClosing 2 (.inr rfl), .commitOpening (.power 3)⟩,
    ⟨.rssiReadGap 0 1, .noiseInitImmediate⟩, by decide⟩

/-- The record of R207 (`SET_PARITY! 3`), and the answers of each whole run. -/
theorem witness_CodecMissStopsTransparentModes :
    let missed := { recordReset with parity := 3 }
    let image := imageBytes (encodeRecord missed)
    let s (acks : Nat) (sent : Nat) (reply : List Byte) :=
      { answered_by [.lvl true] (List.replicate acks .ok) [.cnt sent] [.bytes reply] with record := missed }
    let w := answered_by [.lvl true] (List.replicate 5 .ok) [.cnt 12] [.bytes (0xC1 :: 0x00 :: 0x09 :: image)]
    State.reset.phase = .idle ∧ ¬ hasNative missed ∧ Mode.normal.transparent = true ∧
    (s 5 4 [0xC1, 5, 1, 0x17]).record = missed ∧ spanOk 5 ([0x17] : List Byte).length = true ∧
    spanOk 5 (1 : Byte).toNat = true ∧ (s 4 3 [0xC1, 5, 1, 0x17]).countIn = .cnt 3 :: [] ∧
    (s 5 12 (0xC1 :: 0x00 :: 0x09 :: image)).readIn = .bytes (0xC1 :: 0x00 :: 0x09 :: image) :: [] ∧
    image.length = 9 ∧ w.phase = .idle ∧ fieldLegal (.parity 3) = true ∧
    fieldApply (.parity 3) w.record = missed ∧ w.ackIn = List.replicate 5 .ok ++ [] ∧
    w.readIn = .bytes (0xC1 :: 0x00 :: 0x09 :: image) :: [] := by
  unfold hasNative; decide

theorem witness_BusyPollNeverGivesUp :
    let s := { running .modeConfig ⟨1, [], some 2⟩ with busyIn := [.lvl false, .lvl false, .lvl true] }
    TransitionAt .modeConfig .config (fun k => ⟨1, [], k⟩) ∧
    s.phase = .run .modeConfig ⟨1, [], some 2⟩ ∧
    s.busyIn = List.replicate 2 (.lvl false) ++ [.lvl true] :=
  ⟨.mode .config, by decide⟩

/-- About to write select-A, and about to write select-B. -/
theorem witness_StepKeepsPinOrder :
    (PinOrder { running .modeWor ⟨1, [], some 3⟩ with trace := [⟨.gRd, .lvl true⟩], ackIn := [.ok] } ∧
      ∃ t, step { running .modeWor ⟨1, [], some 3⟩ with
        trace := [⟨.gRd, .lvl true⟩], ackIn := [.ok] } = .next t) ∧
    (PinOrder { running .modeWor ⟨1, [], some 4⟩ with
        trace := [⟨.gWr .a true, .ok⟩, ⟨.gRd, .lvl true⟩], ackIn := [.ok] } ∧
      ∃ t, step { running .modeWor ⟨1, [], some 4⟩ with
        trace := [⟨.gWr .a true, .ok⟩, ⟨.gRd, .lvl true⟩], ackIn := [.ok] } = .next t) := by
  refine ⟨⟨⟨⟨trivial, trivial⟩, fun _ _ _ _ => rfl, ?_⟩, _, rfl⟩,
    ⟨⟨⟨rfl, trivial, trivial⟩, ?_, fun _ _ _ _ => ⟨true, rfl⟩⟩, _, rfl⟩⟩
  · rintro op loc h hs; cases h; cases hs
  · rintro op loc h hs; cases h; cases hs

theorem witness_ChecksComeBeforeAnyPort :
    State.reset.phase = .idle ∧ spanOk 0x09 1 = false ∧ spanOk 0x08 2 = false ∧ spanOk 0x86 2 = false ∧
    spanOk 0xFF 2 = false ∧ rssiSpanOk 1 2 = false ∧ rssiSpanOk 2 1 = false ∧ (2 : Byte) ≠ 0 ∧
    ([1] : List Byte) ≠ [] := by decide

/-- The longest frame (W7). -/
theorem witness_RegWriteCompletes :
    let data : List Byte := [1, 2, 3, 4, 5, 6, 7, 8, 9]
    let s := answered_by [.lvl true, .lvl true] (List.replicate 9 .ok) [.cnt (3 + data.length)]
      [.bytes (0xC1 :: 0x00 :: 0x09 :: data)]
    s.phase = .idle ∧ spanOk 0x00 data.length = true ∧ hasNative s.record ∧
    s.busyIn = .lvl true :: .lvl true :: [] ∧ s.ackIn = List.replicate 9 .ok ++ [] ∧
    s.countIn = .cnt (3 + data.length) :: [] ∧
    s.readIn = .bytes (0xC1 :: 0x00 :: BitVec.ofNat 8 data.length :: data) :: [] := by
  unfold hasNative; decide

/-- W1, W3, W5: a whole reply and a short one; an equal echo and a different one. -/
theorem witness_EchoCheckIgnoresByteZero :
    let s := { running (.regWrite 0x05 [0x17]) ⟨9, [], none⟩ with
      txf := [0xC0, 0x05, 0x01, 0x17], rxf := [0xC1, 0x05, 0x01, 0x18] }
    let r := { running (.regWrite 0x05 [0x17]) ⟨7, [], none⟩ with
      txf := [0xC0, 0x05, 0x01, 0x17], readIn := [.bytes [0xC1, 0x05, 0x01]] }
    s.txf = 0xC0 :: [0x05, 0x01, 0x17] ∧
    s.phase = .run (.regWrite 0x05 [0x17]) ⟨9, [], none⟩ ∧ s.rxf = 0xC1 :: [0x05, 0x01, 0x18] ∧
    ([0x05, 0x01, 0x18] : List Byte).length = ([0x05, 0x01, 0x17] : List Byte).length ∧
    ([0x05, 0x01, 0x18] : List Byte) ≠ [0x05, 0x01, 0x17] ∧
    r.txf = 0xC0 :: [0x05, 0x01, 0x17] ∧ r.phase = .run (.regWrite 0x05 [0x17]) ⟨7, [], none⟩ ∧
    r.readIn = .bytes [0xC1, 0x05, 0x01] :: [] := by decide

theorem witness_RegReadCompletes :
    let data : List Byte := [1, 2, 3, 4, 5, 6, 7]
    let s := answered_by [.lvl true, .lvl true] (List.replicate 8 .ok) [.cnt 3]
      [.bytes (0xFF :: 0xFF :: 0xFF :: data)]
    s.phase = .idle ∧ spanOk 0x80 (7 : Byte).toNat = true ∧ hasNative s.record ∧
    data.length = (7 : Byte).toNat ∧ s.busyIn = .lvl true :: .lvl true :: [] ∧
    s.ackIn = List.replicate 8 .ok ++ [] ∧ s.countIn = .cnt 3 :: [] ∧
    s.readIn = .bytes (0xFF :: 0xFF :: 0xFF :: data) :: [] := by
  unfold hasNative; decide

theorem witness_RssiReadCompletes :
    let s := answered_by [] [.ok, .ok] [.cnt 6] [.bytes [0xC1, 0, 2, 0xC8, 0x50]]
    s.phase = .idle ∧ rssiSpanOk 0 (2 : Byte).toNat = true ∧
    ([0xC8, 0x50] : List Byte).length = (2 : Byte).toNat ∧ s.ackIn = .ok :: .ok :: [] ∧
    s.countIn = .cnt 6 :: [] ∧ s.readIn = .bytes (0xC1 :: 0 :: 2 :: [0xC8, 0x50]) :: [] := by decide

theorem witness_EepromWriteCompletes : commitHypotheses (commitReady recordReset).record = true := by
  decide

theorem witness_EepromReadCompletes :
    let s := answered_by (List.replicate 4 (.lvl true)) (List.replicate 16 .ok) [.cnt 3, .cnt 3]
      [.bytes (0xC1 :: 0 :: 9 :: imageBytes (encodeRecord recordE2)),
        .bytes (0xC1 :: 0x80 :: 7 :: pidBytes ⟨0, 0x22, 0x10, 0x0B, 0, 0x16, 0⟩)]
    s.phase = .idle ∧ hasNative s.record ∧ s.busyIn = List.replicate 4 (.lvl true) ++ [] ∧
    s.ackIn = List.replicate 16 .ok ++ [] ∧ s.countIn = .cnt 3 :: .cnt 3 :: [] ∧
    s.readIn = .bytes (0xC1 :: 0 :: 9 :: imageBytes (encodeRecord recordE2)) ::
      .bytes (0xC1 :: 0x80 :: 7 :: pidBytes ⟨0, 0x22, 0x10, 0x0B, 0, 0x16, 0⟩) :: [] := by
  unfold hasNative; decide

theorem witness_NoiseInitCompletes :
    let s := answered_by [] [.ok, .ok] [.cnt 6] [.bytes [0xC1, 0, 1, 0xC8]]
    s.phase = .idle ∧ s.ackIn = .ok :: .ok :: [] ∧ s.countIn = .cnt 6 :: [] ∧
    s.readIn = .bytes [0xC1, 0, 1, 0xC8] :: [] := by decide

/-- W6 (count 2 of 4), W5 (3 bytes of 4), and the `err` answers; a reading operation at its places. -/
theorem witness_ExchangeFaults :
    let at_ (n : Nat) := { running (.regWrite 0x05 [0x17]) ⟨n, [], none⟩ with
      txf := [0xC0, 0x05, 0x01, 0x17] }
    (WriteExchangeAt (.regWrite 0x05 [0x17]) (fun n => ⟨n, [], none⟩) ∧
      WriteExchangeAt (.commitPower 3) (fun n => ⟨3, [2, n], none⟩) ∧
      ReadExchangeAt (.regRead 0x80 7) 7 (fun n => ⟨n, [], none⟩) ∧
      ReadExchangeAt .noiseInit 1 (fun n => ⟨1, [n], none⟩)) ∧
    ((running .noiseInit ⟨1, [5], none⟩).phase = .run .noiseInit ⟨1, [5], none⟩ ∧
      (running .noiseInit ⟨1, [7], none⟩).phase = .run .noiseInit ⟨1, [7], none⟩) ∧
    (at_ 5).phase = .run (.regWrite 0x05 [0x17]) ⟨5, [], none⟩ ∧
    { at_ 5 with countIn := [.cnt 2] }.countIn = .cnt 2 :: [] ∧ 2 ≠ (at_ 5).txf.length ∧
    { at_ 5 with countIn := [.err] }.countIn = .err :: [] ∧
    (at_ 6).phase = .run (.regWrite 0x05 [0x17]) ⟨6, [], none⟩ ∧
    { at_ 6 with ackIn := [.err] }.ackIn = .err :: [] ∧
    (at_ 7).phase = .run (.regWrite 0x05 [0x17]) ⟨7, [], none⟩ ∧
    { at_ 7 with readIn := [.err] }.readIn = .err :: [] ∧
    { at_ 7 with readIn := [.bytes [0xC1, 0x05, 0x01]] }.readIn = .bytes [0xC1, 0x05, 0x01] :: [] ∧
    ([0xC1, 0x05, 0x01] : List Byte).length < (at_ 7).txf.length ∧
    ([0xC1, 0x05, 0x01] : List Byte).length ≤ frameMax ∧ ([0xC1, 0, 1] : List Byte).length < 3 + 1 :=
  ⟨⟨.regWrite 5 [0x17], .commit (.power 3), .regRead 0x80 7, .noiseInit⟩, by decide⟩

theorem witness_RssiChannelLeavesPinsAlone :
    (∃ t, exec (.rssiRead 0 1) State.reset = .next t) ∧ (∃ t, exec .noiseInit State.reset = .next t) :=
  ⟨⟨_, rfl⟩, ⟨_, rfl⟩⟩

theorem witness_WireExchangesComplete :
    let data : List Byte := [1, 2, 3, 4, 5, 6, 7, 8, 9]
    let w := answered_by [] [.ok] [.cnt (3 + data.length)]
      [.bytes (0xC1 :: 0 :: BitVec.ofNat 8 data.length :: data)]
    let r := answered_by [] [] [.cnt 3] [.bytes (0xC1 :: 0 :: 9 :: data)]
    let q := answered_by [] [] [.cnt 6] [.bytes [0xC1, 0, 2, 0xC8, 0x50]]
    data.length ≤ 9 ∧ w.phase = .idle ∧ w.ackIn = .ok :: [] ∧ w.countIn = .cnt (3 + data.length) :: [] ∧
    w.readIn = .bytes (0xC1 :: 0 :: BitVec.ofNat 8 data.length :: data) :: [] ∧
    r.phase = .idle ∧ data.length = (9 : Byte).toNat ∧ r.countIn = .cnt 3 :: [] ∧
    r.readIn = .bytes (0xC1 :: 0 :: 9 :: data) :: [] ∧
    q.phase = .idle ∧ ([0xC8, 0x50] : List Byte).length = (2 : Byte).toNat ∧
    q.countIn = .cnt 6 :: [] ∧ q.readIn = .bytes (0xC1 :: 0 :: 2 :: [0xC8, 0x50]) :: [] := by decide

theorem witness_OperationsRunTheirExchange :
    [4, 5, 6, 7, 8, 9].all (fun n => decide ((running (.regWrite 0x05 [0x17]) ⟨n, [], none⟩).phase =
      .run (.regWrite 0x05 [0x17]) ⟨n, [], none⟩)) = true := by decide

theorem witness_LastStepsAnswerDone :
    [2, 11, 9, 5, 4, 3, 7, 10, 8].all (fun n => decide ((running .noiseInit ⟨n, [], none⟩).phase =
      .run .noiseInit ⟨n, [], none⟩)) = true ∧
    (running (.commitPower 3) ⟨3, [5], none⟩).phase = .run (.commitPower 3) ⟨3, [5], none⟩ ∧
    { running .noiseInit ⟨3, [], none⟩ with rxf := [0xC1, 0, 1, 0xC8] }.rxf = [0xC1, 0, 1, 0xC8] := by
  decide

/-- One byte, the largest buffer, no byte, one byte too many; the first and the last of the steps between. -/
theorem witness_TlmExtractStoresAndAnswers :
    State.reset.phase = .idle ∧ (1 ≤ 1 ∧ 6 ≤ 6) ∧
    (1 ≤ ([0x0A] : List Byte).length ∧ ([0x0A] : List Byte).length ≤ rxbufMax) ∧
    (1 ≤ (List.replicate rxbufMax (0 : Byte)).length ∧
      (List.replicate rxbufMax (0 : Byte)).length ≤ rxbufMax) ∧
    ([] : List Byte).length = 0 ∧ rxbufMax < (List.replicate (rxbufMax + 1) (0 : Byte)).length := by
  refine ⟨rfl, by decide, ⟨Nat.le_refl 1, ?_⟩, ⟨?_, ?_⟩, rfl, ?_⟩
  · exact Nat.le_add_left 1 _
  · rw [List.length_replicate]; exact Nat.le_add_left 1 _
  · rw [List.length_replicate]
  · rw [List.length_replicate]; exact Nat.lt_succ_self _

theorem witness_MarkerFreeBuffersAndContinuation :
    (([0x48] : List Byte) ≠ [] ∧ ∀ upTo : List Byte, upTo <+: [0x48] → upTo ≠ [] →
      { reference with segEnd := fun _ => false }.segEnd upTo = false) ∧
    (extract reference false 0 [0x48]).expect = false ∧ reference.segEnd ([0x48] ++ [0x0A]) = true ∧
    1 ≤ reference.maxSeg ∧ reference.carryRecorded = true :=
  ⟨⟨by decide, fun _ _ _ => rfl⟩, by decide⟩

theorem witness_EachByteIsPayloadOrTelemetry :
    (extract reference false 0 [0x48, 0x0A]).expect = true ∧
    (extract reference true 0 []).expect = true ∧
    (extract reference false 0 [0x48, 0x0A, 0x50]).expect = false ∧
    blockParams false = blockParams false ∧ State.reset.phase = .idle ∧
    State.reset.tlmCarry = false ∧ State.reset.rxSegments = 0 ∧ ([] : List Byte).length + 1 ≤ rxbufMax :=
  ⟨by decide, by decide, by decide, rfl, rfl, rfl, rfl, Nat.le_add_left 1 _⟩

theorem witness_CapacityOnlyLimitsStoring :
    2 ≤ 8 ∧ (extract { reference with maxSeg := 2 } false 0 [0x41, 0x0A, 0x11, 0x42]).overflow = false := by
  decide

theorem witness_SamplesFollowTheirSegments :
    ([0x50, 0x4A, 0x0A, 0x51] : List Byte) ≠ [] ∧
    (extract reference true 0 [0x50, 0x4A, 0x0A, 0x51]).overflow = false ∧
    1 + 0 < (extract reference true 0 [0x50, 0x4A, 0x0A, 0x51]).smp.length := by decide

theorem witness_PayloadAndSamplesAddUp :
    (extract { reference with carryRecorded := false } true 0 [0x50, 0x4A, 0x0A]).overflow = false ∧
    (extract reference false 0 [0x50, 0x4A, 0x0A]).overflow = false := by decide

theorem witness_SegmentsAreOrderedRanges :
    (⟨0, 1⟩ : Segment) ∈ (extract reference false 0 [0x48, 0x0A, 0x50, 0x49]).seg ∧
    (extract reference false 0 [0x48, 0x0A, 0x50, 0x49]).start = some 3 := by decide

theorem witness_TlmGetResult :
    { State.reset with floor := some 0xC8, tail := some ⟨3, 3⟩ }.floor = some 0xC8 ∧
    { State.reset with floor := some 0xC8, tail := some ⟨3, 3⟩ }.tail = some ⟨3, 3⟩ := by decide

/-- V6, V9, V10. -/
theorem witness_SnrIsQuotientOfRawBytes :
    let s := { State.reset with smp := [0x50], floor := some 0xC8 }
    s.smp[0]? = some 0x50 ∧ s.floor = some 0xC8 ∧ (0xC8 : Byte) ≠ 0 ∧ s.smp[1]? = none ∧
    State.reset.floor = none ∧ { s with floor := some 0 }.floor = some 0 := by decide

theorem witness_StepRunsTheDecodedInstruction :
    resetAsserted (offering [0x77, 0x17]) = false ∧ (offering [0x77, 0x17]).phase = .idle ∧
    (offering [0x77, 0x17]).hostCmds = [0x77, 0x17] :: [] ∧
    decode .host [0x77, 0x17] = .ok (.commitChannel 0x17) ∧
    (running .eepromRead ⟨3, [], none⟩).phase = .run .eepromRead ⟨3, [], none⟩ ∧
    State.reset.hostCmds = [] ∧ State.reset.phase = .idle := by decide

theorem witness_ResetAbandonsTheOperation :
    resetAsserted { running .eepromRead ⟨3, [], none⟩ with resetPin := [true] } = true := by decide

/-- Full frame buffers, one sample, one segment, a one-byte tail, a deferred sample, and a running operation; and a
`TLM_EXTRACT` about to store its tail. -/
theorem witness_StepKeepsInvariants :
    (let s : State := { running .noiseInit ⟨2, [], none⟩ with
        txf := List.replicate 12 0, rxf := List.replicate 12 5, smp := [7], seg := [⟨0, 1⟩]
        tail := some ⟨3, 3⟩, tlmCarry := true, diag := 1, responses := [[0, 7], [4]], lineA := none };
      Inv s ∧ ∃ t, step s = .next t) ∧
    (let s : State := { running (.tlmExtract [0x48]) ⟨4, [], none⟩ with
        tlmCarry := true, scan := ⟨[0x48], false, false, some 0⟩ };
      Inv s ∧ duringExtract s ∧ ∃ t, step s = .next t) := by
  refine ⟨⟨⟨by decide, by decide, by decide, Nat.le_add_left 1 _, Nat.le_add_left 1 _, by decide, ?_,
    fun _ => by decide, ?_, ?_, fun _ => rfl, .inl rfl, .inr rfl, by decide⟩, _, rfl⟩,
    ⟨by decide, by decide, by decide, Nat.zero_le _, Nat.zero_le _, by decide, ?_,
    fun h => absurd ⟨[0x48], 4, rfl, by decide⟩ h, ?_, ?_,
    fun h => absurd ⟨[0x48], 4, rfl, by decide⟩ h, .inr rfl, .inr rfl, by decide⟩,
    ⟨[0x48], 4, rfl, by decide⟩, _, rfl⟩
  · rintro g h; cases h; exact Nat.le_refl _
  · rintro rxb n h; cases h
  · rintro rxb n h; cases h
  · rintro g h; cases h
  · rintro rxb n h; cases h; decide
  · rintro rxb n h
    cases h
    refine ⟨fun h => ?_, fun _ first h => ?_⟩
    · cases h
    · cases h; decide

theorem witness_NoStepEverStops :
    phaseOk (running (.commitPower 3) ⟨3, [2, 9], none⟩) = true ∧
    phaseOk (running .eepromRead ⟨4, [], none⟩) = true ∧ phaseOk State.reset = true := by decide

/-- A packet taken and answered in one step, an operation's last step, a reset, a turn of the poll loop with two
events. -/
theorem witness_OneResponsePerOperation :
    resetAsserted (offering [0x21]) = false ∧ (offering [0x21]).hostCmds ≠ [] ∧
    holdsNext (fun t => decide (t.responses = [[0]] ∧ t.hostCmds = [] ∧ t.phase = .idle))
      (step (offering [0x21])) ∧
    holdsNext (fun t => decide (t.responses = [[0]] ∧ t.phase = .idle))
      (step (running .eepromRead ⟨4, [], none⟩)) ∧
    holdsNext (fun t => decide (t.responses = []))
      (step { running .eepromRead ⟨4, [], none⟩ with resetPin := [true] }) ∧
    State.reset.hostCmds = [] ∧
    holdsNext (fun t => decide (t.trace.length = 2))
      (step { running .modeConfig ⟨1, [], some 2⟩ with busyIn := [.lvl false] }) := by decide

/-- Each kind of state changes in a step of its own writer. -/
theorem witness_OtherStateHasOnlyItsWriters :
    holdsNext (fun t => decide (t.pid ≠ none))
      (step { running .eepromRead ⟨3, [], none⟩ with rxf := List.replicate 10 0 }) ∧
    holdsNext (fun t => decide (t.pollInterval ≠ 100)) (step (offering [0x08, 0, 0, 0, 0xFA])) ∧
    holdsNext (fun t => decide (t.floor ≠ none))
      (step { running .noiseInit ⟨2, [], none⟩ with rxf := [0xC1, 0, 1, 0xC8] }) ∧
    holdsNext (fun t => decide (t.txSegments ≠ 0)) (step (offering [0x22])) ∧
    holdsNext (fun t => decide (t.smp ≠ [7])) (step { offering [0x21] with smp := [7] }) ∧
    holdsNext (fun t => decide (t.mA ≠ false))
      (step { running .modeWor ⟨1, [], some 3⟩ with ackIn := [.ok] }) ∧
    holdsNext (fun t => decide (t.mB ≠ false))
      (step { running .modeSleep ⟨1, [], some 4⟩ with ackIn := [.ok] }) := by decide

end Sys2Proof.Tests
end

/-!
PROOFS. How a step list runs: the sequencer never looks at anything but the place, so a run of an operation whose
steps all complete is a fold over the steps, `phase` apart; and two lists that hold the same step at the same place
do the same there.
-/

namespace Sys2Proof.Machine

/-! ### No step looks at `phase` -/

/-- The state with the sequencer at another place. -/
def State.withPhase (ph : Phase) (s : State) : State := { s with phase := ph }

/-- The same outcome with another state in it. -/
def StepResult.map (f : State → State) : StepResult → StepResult
  | .go t => .go (f t)
  | .stay t => .stay (f t)
  | .raise c t => .raise c (f t)
  | .done result t => .done result (f t)

theorem StepResult.map_ite (f : State → State) (c : Prop) [Decidable c] (x y : StepResult) :
    StepResult.map f (if c then x else y) = if c then x.map f else y.map f := apply_ite _ c x y

theorem recvStep_withPhase (k : Nat) (ph : Phase) (s : State) :
    recvStep k (s.withPhase ph) = (recvStep k s).map (State.withPhase ph) := by
  have hr : nextRead (s.withPhase ph) = nextRead s := rfl
  simp only [recvStep, hr]
  cases nextRead s with
  | err => rfl
  | bytes l => simp only [StepResult.map_ite]; rfl

/-- Which step runs is decided by `phase`, what it does is not. -/
theorem runMicro_withPhase (m : Micro) (ph : Phase) (s : State) :
    runMicro m (s.withPhase ph) = (runMicro m s).map (State.withPhase ph) := by
  have hb : nextBusy (s.withPhase ph) = nextBusy s := rfl
  have ha : nextAck (s.withPhase ph) = nextAck s := rfl
  have hc : nextCount (s.withPhase ph) = nextCount s := rfl
  cases m with
  | require holds f => cases holds <;> rfl
  | transCheck t => simp only [runMicro, transCheckStep, StepResult.map_ite]; rfl
  | poll =>
    simp only [runMicro, pollStep, hb]
    cases nextBusy s with
    | err => rfl
    | lvl v => simp only [StepResult.map_ite]; rfl
  | drive l v => simp only [runMicro, driveStep, ha]; cases nextAck s <;> cases l <;> rfl
  | uartConfigure => simp only [runMicro, uartConfigureStep, ha]; cases nextAck s <;> rfl
  | uartReadRule a b => simp only [runMicro, uartReadRuleStep, ha]; cases nextAck s <;> rfl
  | send =>
    simp only [runMicro, sendStep, hc]
    cases nextCount s with
    | err => rfl
    | cnt k => simp only [StepResult.map_ite]; rfl
  | flush => simp only [runMicro, flushStep, ha]; cases nextAck s <;> rfl
  | recv k => exact recvStep_withPhase k ph s
  | recvEcho => exact recvStep_withPhase s.txf.length ph s
  | checkEcho => simp only [runMicro, checkEchoStep, StepResult.map_ite]; rfl
  | commit fromStaged => cases fromStaged <;> rfl
  | clearExtract legal => cases legal <;> rfl
  | _ => rfl

/-! ### A run whose steps all complete -/

/-- The state after these steps, if each of them lets the next one follow (no fault, no turn of the poll loop). -/
def completes : List Micro → State → Option State
  | [], s => some s
  | m :: ms, s =>
    match runMicro m s with
    | .go t => completes ms t
    | _ => none

theorem completes_nil (s : State) : completes [] s = some s := rfl

theorem completes_cons_iff {m : Micro} {ms : List Micro} {s u : State} :
    completes (m :: ms) s = some u ↔ ∃ t, runMicro m s = .go t ∧ completes ms t = some u := by
  simp only [completes]
  cases runMicro m s <;> simp

theorem completes_cons {m : Micro} {ms : List Micro} {s t u : State} (hm : runMicro m s = .go t)
    (ht : completes ms t = some u) : completes (m :: ms) s = some u :=
  completes_cons_iff.2 ⟨t, hm, ht⟩

theorem completes_withPhase {ms : List Micro} {s t : State} (h : completes ms s = some t) (ph : Phase) :
    completes ms (s.withPhase ph) = some (t.withPhase ph) := by
  induction ms generalizing s with
  | nil => cases h; rfl
  | cons m ms ih =>
    obtain ⟨u, hm, hu⟩ := completes_cons_iff.1 h
    have hm' : runMicro m (s.withPhase ph) = .go (u.withPhase ph) := by
      rw [runMicro_withPhase, hm]; rfl
    exact completes_cons hm' (ih hu)

/-- In a list without repeated places, a place leads to the part that begins there. -/
theorem fromLoc_suffix_head {e : Loc × Micro} {rest p : StepList} (hp : (p.map Prod.fst).Nodup)
    (h : e :: rest <:+ p) : fromLoc e.1 p = e :: rest := by
  induction p with
  | nil => simp at h
  | cons d p ih =>
    rw [List.map_cons, List.nodup_cons] at hp
    obtain ⟨hd, hp⟩ := hp
    rcases List.suffix_cons_iff.1 h with heq | hs
    · cases heq; simp [fromLoc]
    · have hne : d.1 ≠ e.1 := fun heq =>
        hd (heq ▸ List.mem_map_of_mem (hs.subset List.mem_cons_self))
      simp [fromLoc, hne, ih hp hs]

/-- An operation whose remaining steps complete up to its `done` answers with the result, and leaves what the steps
leave (R40, R123). -/
theorem runExec_of_completes {i : Instr} {block post : StepList} {loc : Loc} {r : ResultForm} {s t : State}
    (hexec : ∀ s, exec i s = runSteps i (stepListOf i) s) (hplaces : ((stepListOf i).map Prod.fst).Nodup)
    (hs : remaining (stepListOf i) s.phase = block ++ (loc, .done r) :: post)
    (ht : completes (block.map Prod.snd) s = some t) :
    runExec i (block.length + 1) s = .next (answered (resultBytes r t) t) := by
  induction block generalizing s t with
  | nil =>
    cases ht
    exact runExec_succ ((hexec s).trans (runSteps_eq hs)) 0
  | cons e block ih =>
    obtain ⟨u, hm, hu⟩ := completes_cons_iff.1 ht
    obtain ⟨d, rest, hrest⟩ : ∃ d rest, block ++ (loc, .done r) :: post = d :: rest :=
      List.exists_cons_of_ne_nil (by simp)
    have hstep : exec i s = .next (u.withPhase (.run i d.1)) := by
      rw [hexec, runSteps_eq (by rw [hs, List.cons_append, hrest]), hm]; rfl
    have hsuffix : d :: rest <:+ stepListOf i := by
      have hall := remaining_suffix (stepListOf i) s.phase
      rw [hs, List.cons_append, hrest] at hall
      exact (List.suffix_cons e _).trans hall
    have hnext : remaining (stepListOf i) (u.withPhase (.run i d.1)).phase =
        block ++ (loc, .done r) :: post := (fromLoc_suffix_head hplaces hsuffix).trans hrest.symm
    rw [List.length_cons, runExec_succ hstep, ih hnext (completes_withPhase hu _)]
    cases r <;> rfl

/-! ### The same step in two lists -/

theorem fromLoc_append_of_notMem {loc : Loc} {p : StepList} (h : ∀ e ∈ p, e.1 ≠ loc) (q : StepList) :
    fromLoc loc (p ++ q) = fromLoc loc q := by
  induction p with
  | nil => rfl
  | cons d p ih =>
    obtain ⟨hd, hp⟩ := List.forall_mem_cons.1 h
    simp [fromLoc, hd, ih hp]

theorem fromLoc_append_of_mem {loc : Loc} {p : StepList} (h : loc ∈ p.map Prod.fst) :
    ∃ m rest, ∀ q, fromLoc loc (p ++ q) = (loc, m) :: (rest ++ q) := by
  induction p with
  | nil => simp at h
  | cons d p ih =>
    obtain ⟨l, m⟩ := d
    by_cases hd : l = loc
    · exact ⟨m, p, fun q => by simp [fromLoc, hd]⟩
    · obtain ⟨m', rest, hrest⟩ := ih (by simpa [Ne.symm hd] using h)
      exact ⟨m', rest, fun q => by simp [fromLoc, hd, hrest]⟩

/-- The operation and what follows decide nothing but `phase`. -/
theorem settleStep_idle (op op' : Instr) (loc loc' : Loc) (rest rest' : StepList) (x : StepResult) :
    (settleStep op loc rest x).withPhase .idle = (settleStep op' loc' rest' x).withPhase .idle := by
  cases x <;> rfl

/-- At a place of `block`, a list that holds `block` after other places and a list that begins with it do the
same, `phase` apart. -/
theorem runSteps_same_block {i w op : Instr} {p q pre block post tail : StepList} {s : State} {loc : Loc}
    (hp : p = pre ++ (block ++ post)) (hq : q = block ++ tail) (hs : s.phase = .run op loc)
    (hpre : ∀ e ∈ pre, e.1 ≠ loc) (hblock : loc ∈ block.map Prod.fst) :
    ∃ t u, runSteps i p s = .next t ∧ runSteps w q s = .next u ∧
      t.withPhase .idle = u.withPhase .idle := by
  obtain ⟨m, rest, hrest⟩ := fromLoc_append_of_mem hblock
  have hi : remaining p s.phase = (loc, m) :: (rest ++ post) := by
    rw [hp, hs, remaining, fromLoc_append_of_notMem hpre, hrest]
  have hw : remaining q s.phase = (loc, m) :: (rest ++ tail) := by
    rw [hq, hs, remaining, hrest]
  exact ⟨_, _, runSteps_eq hi, runSteps_eq hw, settleStep_idle ..⟩

end Sys2Proof.Machine

/-!
PROOFS. The exchanges of R10 when no event fails: what each step leaves, and what a whole write or read exchange
leaves, wherever it stands in an operation.
-/

namespace Sys2Proof.Machine

/-! ### The answers that let a step complete -/

theorem load_go {frame : List Byte} (s : State) (h : frame.length ≤ frameMax) :
    runMicro (.load frame) s = .go { s with txf := frame } := by
  simp [runMicro, List.take_of_length_le h]

theorem send_go {s : State} {counts : List CountAnswer} (h : s.countIn = .cnt s.txf.length :: counts) :
    runMicro .send s = .go { s with
      countIn := counts, frees := s.frees + 1, trace := ⟨.uWr s.txf, .cnt s.txf.length⟩ :: s.trace } := by
  simp [runMicro, sendStep, afterCount, nextCount, h, logEvent, countAnswer]

theorem flush_go {s : State} {acks : List AckAnswer} (h : s.ackIn = .ok :: acks) :
    runMicro .flush s = .go { s with
      ackIn := acks, frees := s.frees + 1, trace := ⟨.uFl, .ok⟩ :: s.trace } := by
  simp [runMicro, flushStep, afterAck, nextAck, h, logEvent, ackAnswer]

theorem recv_go {k : Nat} {s : State} {reply : List Byte} {reads : List ReadAnswer}
    (h : s.readIn = .bytes reply :: reads) (hlen : reply.length = k) (hmax : reply.length ≤ frameMax) :
    runMicro (.recv k) s = .go { s with
      rxf := reply, readIn := reads, frees := s.frees + 1, trace := ⟨.uRd k, .bytes reply⟩ :: s.trace } := by
  simp [runMicro, recvStep, afterRead, nextRead, h, logEvent, readAnswer, hlen, List.take_of_length_le hmax]

theorem checkEcho_go {s : State} (hlen : s.rxf.length = s.txf.length) (h : s.rxf.drop 1 = s.txf.drop 1) :
    runMicro .checkEcho s = .go s := by
  simp [runMicro, checkEchoStep, ← hlen, h]

/-! ### Whole exchanges -/

/-- The write exchange of R256 steps 4 to 9 with an echo that equals the frame from byte 1 on (R257). -/
theorem completes_writeExchange (place : Nat → Option Nat → Loc) {load : Micro} {frame reply : List Byte}
    {s : State} {acks : List AckAnswer} {counts : List CountAnswer} {reads : List ReadAnswer}
    (hload : runMicro load s = .go { s with txf := frame }) (hmax : frame.length ≤ frameMax)
    (hack : s.ackIn = .ok :: acks) (hcount : s.countIn = .cnt frame.length :: counts)
    (hread : s.readIn = .bytes reply :: reads) (hlen : reply.length = frame.length)
    (hecho : reply.drop 1 = frame.drop 1) :
    completes ((writeExchange place load).map Prod.snd) s = some { s with
      txf := frame, rxf := reply
      ackIn := acks, countIn := counts, readIn := reads, frees := s.frees + 3
      trace := [⟨.uRd frame.length, .bytes reply⟩, ⟨.uFl, .ok⟩, ⟨.uWr frame, .cnt frame.length⟩] ++
        s.trace } := by
  refine completes_cons hload ?_
  refine completes_cons (send_go hcount) ?_
  refine completes_cons (flush_go hack) ?_
  refine completes_cons (recv_go hread hlen (hlen ▸ hmax)) ?_
  refine completes_cons rfl ?_
  exact completes_cons (checkEcho_go hlen hecho) (completes_nil _)

/-- The read exchange of R262 and R268 steps 4 to 7; step 6 does nothing (FLUSH_ON_READ = false, log 11). -/
theorem completes_readExchange (place : Nat → Option Nat → Loc) {frame reply : List Byte} {len : Nat}
    {s : State} {counts : List CountAnswer} {reads : List ReadAnswer} (hframe : frame.length ≤ frameMax)
    (hcount : s.countIn = .cnt frame.length :: counts) (hread : s.readIn = .bytes reply :: reads)
    (hlen : reply.length = 3 + len) (hmax : reply.length ≤ frameMax) :
    completes ((readExchange place frame len).map Prod.snd) s = some { s with
      txf := frame, rxf := reply, countIn := counts, readIn := reads, frees := s.frees + 2
      trace := [⟨.uRd (3 + len), .bytes reply⟩, ⟨.uWr frame, .cnt frame.length⟩] ++ s.trace } := by
  refine completes_cons (load_go s hframe) ?_
  refine completes_cons (send_go hcount) ?_
  refine completes_cons (flushOnReadStep_eq _) ?_
  exact completes_cons (recv_go hread hlen hmax) (completes_nil _)

theorem rxData_eq {h0 h1 h2 : Byte} {data : List Byte} {len : Nat} (h : data.length = len) :
    rxData (h0 :: h1 :: h2 :: data) len = data := by
  simp [rxData, ← h]

/-! ### The wire rows on their own -/

theorem frameW_length (addr : Byte) (data : List Byte) : (frameW addr data).length = 3 + data.length := by
  simp only [frameW, List.length_cons]
  omega

theorem reply_length (h0 h1 h2 : Byte) (data : List Byte) :
    (h0 :: h1 :: h2 :: data).length = 3 + data.length := by
  simp only [List.length_cons]
  omega

/-- A wire row that is one read exchange and its report runs to its end (R10, R103, R104, R108). -/
theorem runExec_readRow {i : Instr} {frame data : List Byte} {len : Nat} (h0 h1 h2 : Byte) {s : State}
    {counts : List CountAnswer} {reads : List ReadAnswer}
    (hexec : ∀ s, exec i s = runSteps i (stepListOf i) s)
    (hsteps : stepListOf i = readExchange topLoc frame len ++ [(topLoc 8 none, .done (.data len))])
    (hframe : frame.length ≤ frameMax) (hphase : s.phase = .idle) (hmax : data.length ≤ 9)
    (hlen : data.length = len) (hcount : s.countIn = .cnt frame.length :: counts)
    (hread : s.readIn = .bytes (h0 :: h1 :: h2 :: data) :: reads) :
    runExec i 5 s = .next (answered data { s with
      txf := frame, rxf := h0 :: h1 :: h2 :: data
      countIn := counts, readIn := reads, frees := s.frees + 2
      trace := [⟨.uRd (3 + len), .bytes (h0 :: h1 :: h2 :: data)⟩,
        ⟨.uWr frame, .cnt frame.length⟩] ++ s.trace }) := by
  have hreply := reply_length h0 h1 h2 data
  have hplaces : ((stepListOf i).map Prod.fst).Nodup := by simp [hsteps, readExchange, topLoc]
  have hrun := runExec_of_completes hexec hplaces (by rw [hphase]; exact hsteps)
    (completes_readExchange topLoc hframe hcount hread (by omega) (by simp only [frameMax]; omega))
  rw [resultBytes, rxData_eq hlen] at hrun
  exact hrun

theorem runExec_wireW {addr h0 : Byte} {data : List Byte} {s : State} {acks : List AckAnswer}
    {counts : List CountAnswer} {reads : List ReadAnswer} (hphase : s.phase = .idle)
    (hmax : data.length ≤ 9) (hack : s.ackIn = .ok :: acks)
    (hcount : s.countIn = .cnt (3 + data.length) :: counts)
    (hread : s.readIn = .bytes (h0 :: addr :: BitVec.ofNat 8 data.length :: data) :: reads) :
    runExec (.wireW addr data) 7 s = .next (answered [] { s with
      txf := frameW addr data
      rxf := h0 :: addr :: BitVec.ofNat 8 data.length :: data
      ackIn := acks, countIn := counts, readIn := reads, frees := s.frees + 3
      trace := [⟨.uRd (3 + data.length), .bytes (h0 :: addr :: BitVec.ofNat 8 data.length :: data)⟩,
        ⟨.uFl, .ok⟩, ⟨.uWr (frameW addr data), .cnt (3 + data.length)⟩] ++ s.trace }) := by
  have hlen := frameW_length addr data
  have hframe : (frameW addr data).length ≤ frameMax := by simp only [frameMax]; omega
  have hplaces : ((stepListOf (.wireW addr data)).map Prod.fst).Nodup := by
    simp [stepListOf, wireWSteps, writeExchange, topLoc]
  have hrun := runExec_of_completes (fun _ => rfl) hplaces (by rw [hphase]; rfl)
    (completes_writeExchange topLoc (load_go s hframe) hframe hack (by rw [hlen]; exact hcount) hread rfl rfl)
  rw [hlen] at hrun
  exact hrun

/-- R105, R108: the reply's data is answered, the whole frame kept in `rxf`. -/
theorem exec_wireReply (h0 h1 h2 : Byte) {data : List Byte} (s : State) (hmax : data.length ≤ 9) :
    exec (.wireReply h0 h1 h2 data) s = .next (answered data { s with
      rxf := h0 :: h1 :: h2 :: data
      trace := ⟨.uRd (3 + data.length), .bytes (h0 :: h1 :: h2 :: data)⟩ :: s.trace }) := by
  have hlen := reply_length h0 h1 h2 data
  have htake : (h0 :: h1 :: h2 :: data).take frameMax = h0 :: h1 :: h2 :: data :=
    List.take_of_length_le (by simp only [frameMax]; omega)
  have harm : exec (.wireReply h0 h1 h2 data) s = execWireReply h0 h1 h2 data s := rfl
  rw [harm, execWireReply, hlen, htake]
  rfl

end Sys2Proof.Machine

/-!
PROOFS. The statements of spec/00_scope.md.
-/

namespace Sys2Proof.Proofs

open Sys2Proof Sys2Proof.Machine

/-- Settles O40: each row's steps complete by `completes_writeExchange` or `completes_readExchange`, and the
sequencer runs them to the report. -/
theorem wireExchangesComplete : Obligations.WireExchangesComplete := by
  intro addr len h0 h1 h2 data s acks counts reads hphase
  refine ⟨fun hmax hack hcount hread => ?write, fun hmax hlen hcount hread => ?read,
    fun hmax hlen hcount hread => ?rssi, fun hmax => exec_wireReply h0 h1 h2 s hmax⟩
  case write => exact runExec_wireW hphase hmax hack hcount hread
  case read =>
    have hframe : (frameR addr len).length ≤ frameMax := by simp [frameR, frameMax]
    exact runExec_readRow (frame := frameR addr len) h0 h1 h2 (fun _ => rfl) rfl hframe hphase hmax hlen
      hcount hread
  case rssi =>
    have hframe : (frameQ addr len).length ≤ frameMax := by simp [frameQ, frameMax]
    exact runExec_readRow (frame := frameQ addr len) h0 h1 h2 (fun _ => rfl) rfl hframe hphase hmax hlen
      hcount hread

/-! ### Where the exchange stands in an operation -/

theorem mem_writeExchange_places {n : Nat} (h4 : 4 ≤ n) (h9 : n ≤ 9) (load : Micro) :
    ⟨n, [], none⟩ ∈ (writeExchange topLoc load).map Prod.fst := by
  simp [writeExchange, topLoc]
  omega

theorem mem_readExchange_places {n : Nat} (h4 : 4 ≤ n) (h7 : n ≤ 7) (frame : List Byte) (len : Nat) :
    ⟨n, [], none⟩ ∈ (readExchange topLoc frame len).map Prod.fst := by
  simp [readExchange, topLoc]
  omega

/-- Steps 1 to 3 of `REG_WRITE` and `REG_READ`: two checks and the transition to Config (R256, R262). -/
def checksAndConfig (someByte spanValid : Bool) : StepList :=
  (topLoc 1 none, .require someByte .invalidArgument) :: (topLoc 2 none, .require spanValid .addressRange) ::
    transitionSteps (topLoc 3) .config

theorem checksAndConfig_places_ne {n : Nat} (h4 : 4 ≤ n) (someByte spanValid : Bool) :
    ∀ e ∈ checksAndConfig someByte spanValid, e.1 ≠ ⟨n, [], none⟩ := by
  simp [checksAndConfig, transitionSteps, topLoc]
  omega

/-- Steps 1 to 3 of `RSSI_READ`: two checks and the gap rule (R268). -/
def checksAndGapRule (someByte spanValid : Bool) : StepList := [
  (topLoc 1 none, .require someByte .invalidArgument),
  (topLoc 2 none, .require spanValid .addressRange),
  (topLoc 3 none, .uartReadRule minGap idleGapUnits)]

theorem checksAndGapRule_places_ne {n : Nat} (h4 : 4 ≤ n) (someByte spanValid : Bool) :
    ∀ e ∈ checksAndGapRule someByte spanValid, e.1 ≠ ⟨n, [], none⟩ := by
  simp [checksAndGapRule, topLoc]
  omega

theorem regWriteSteps_eq_around_exchange (addr : Byte) (data : List Byte) :
    regWriteSteps addr data = checksAndConfig (decide (1 ≤ data.length)) (spanOk addr data.length) ++
      (writeExchange topLoc (.load (frameW addr data)) ++
        (transitionSteps (topLoc 10) .normal ++ [(topLoc 11 none, .done .nothing)])) := rfl

theorem regReadSteps_eq_around_exchange (addr len : Byte) :
    regReadSteps addr len = checksAndConfig (decide (1 ≤ len.toNat)) (spanOk addr len.toNat) ++
      (readExchange topLoc (frameR addr len) len.toNat ++
        (transitionSteps (topLoc 8) .normal ++ [(topLoc 9 none, .done (.data len.toNat))])) := rfl

theorem rssiReadSteps_eq_around_exchange (addr len : Byte) :
    rssiReadSteps addr len = checksAndGapRule (decide (1 ≤ len.toNat)) (rssiSpanOk addr len.toNat) ++
      (readExchange topLoc (frameQ addr len) len.toNat ++
        [(topLoc 8 none, .uartReadRule minImm 0), (topLoc 9 none, .done (.data len.toNat))]) := rfl

/-- Settles O41: the operation's list and the wire row's hold the same exchange, so `runSteps_same_block` applies
at each of its places. -/
theorem operationsRunTheirExchange : Obligations.OperationsRunTheirExchange := by
  intro addr len data op s n hphase
  refine ⟨fun h4 h9 => ?write, fun h4 h7 => ?read, fun h4 h7 => ?rssi⟩
  case write =>
    exact runSteps_same_block (regWriteSteps_eq_around_exchange addr data) rfl hphase
      (checksAndConfig_places_ne h4 _ _) (mem_writeExchange_places h4 h9 _)
  case read =>
    exact runSteps_same_block (regReadSteps_eq_around_exchange addr len) rfl hphase
      (checksAndConfig_places_ne h4 _ _) (mem_readExchange_places h4 h7 _ _)
  case rssi =>
    exact runSteps_same_block (rssiReadSteps_eq_around_exchange addr len) rfl hphase
      (checksAndGapRule_places_ne h4 _ _) (mem_readExchange_places h4 h7 _ _)

end Sys2Proof.Proofs

/-!
PROOFS. The inversion lemmas of the whole machine: what a step can be (`step_cases`), what an operation can do in
it (`exec_cases`), what an operation of one step leaves (`AtOnce`), and which step of a list runs at a place
(`exec_at`).
-/

namespace Sys2Proof.Machine

/-! ### Operations with a step list -/

/-- The operations that have a step list (R40), grouped as their rules group them. -/
inductive Listed : Instr → Prop where
  | wireW (addr : Byte) (data : List Byte) : Listed (.wireW addr data)
  | wireR (addr len : Byte) : Listed (.wireR addr len)
  | wireQ (addr len : Byte) : Listed (.wireQ addr len)
  | mode (t : Mode) : Listed (modeInstr t)
  | regWrite (addr : Byte) (data : List Byte) : Listed (.regWrite addr data)
  | regRead (addr len : Byte) : Listed (.regRead addr len)
  | rssiRead (addr len : Byte) : Listed (.rssiRead addr len)
  | eepromWrite : Listed .eepromWrite
  | eepromRead : Listed .eepromRead
  | noiseInit : Listed .noiseInit
  | tlmExtract (rxb : List Byte) : Listed (.tlmExtract rxb)
  | commit (w : FieldWrite) : Listed (commitInstr w)

theorem listed_of_stepListOf_ne_nil {i : Instr} (h : stepListOf i ≠ []) : Listed i := by
  cases i with
  | wireW addr data => exact .wireW addr data
  | wireR addr len => exact .wireR addr len
  | wireQ addr len => exact .wireQ addr len
  | modeNormal => exact .mode .normal
  | modeWor => exact .mode .wor
  | modeConfig => exact .mode .config
  | modeSleep => exact .mode .sleep
  | regWrite addr data => exact .regWrite addr data
  | regRead addr len => exact .regRead addr len
  | rssiRead addr len => exact .rssiRead addr len
  | eepromWrite => exact .eepromWrite
  | eepromRead => exact .eepromRead
  | noiseInit => exact .noiseInit
  | tlmExtract rxb => exact .tlmExtract rxb
  | commitAddr v => exact .commit (.addr v)
  | commitNetid v => exact .commit (.netid v)
  | commitBaud v => exact .commit (.baud v)
  | commitAir v => exact .commit (.air v)
  | commitParity v => exact .commit (.parity v)
  | commitPacket v => exact .commit (.packet v)
  | commitPower v => exact .commit (.power v)
  | commitChannel v => exact .commit (.channel v)
  | commitKey v => exact .commit (.key v)
  | commitNoiseEn v => exact .commit (.noiseEn v)
  | commitRssiEn v => exact .commit (.rssiEn v)
  | commitFixed v => exact .commit (.fixed v)
  | commitRepeater v => exact .commit (.repeater v)
  | commitLbt v => exact .commit (.lbt v)
  | commitWor v => exact .commit (.wor v)
  | commitWorCycle v => exact .commit (.worCycle v)
  | _ => exact absurd rfl h

theorem stepListOf_modeInstr (t : Mode) : stepListOf (modeInstr t) = modeSteps t := by cases t <;> rfl

theorem stepListOf_commitInstr (w : FieldWrite) : stepListOf (commitInstr w) = setCommitSteps w := by
  cases w <;> rfl

theorem Listed.exec_eq {i : Instr} (h : Listed i) (s : State) : exec i s = runSteps i (stepListOf i) s := by
  cases h with
  | mode t => cases t <;> rfl
  | commit w => cases w <;> rfl
  | _ => rfl

/-- The places of a list do not depend on the operands. -/
theorem setCommitSteps_places (w : FieldWrite) :
    (setCommitSteps w).map Prod.fst = (setCommitSteps (.netid 0)).map Prod.fst := rfl

theorem modeSteps_places (t : Mode) : (modeSteps t).map Prod.fst = (modeSteps .normal).map Prod.fst := rfl

/-- No list has a place twice, so a place says which step is next (R40). -/
theorem Listed.places_nodup {i : Instr} (h : Listed i) : ((stepListOf i).map Prod.fst).Nodup := by
  cases h with
  | wireW addr data => exact (by decide : ((wireWSteps 0 []).map Prod.fst).Nodup)
  | wireR addr len => exact (by decide : ((wireRSteps 0 0).map Prod.fst).Nodup)
  | wireQ addr len => exact (by decide : ((wireQSteps 0 0).map Prod.fst).Nodup)
  | mode t => rw [stepListOf_modeInstr, modeSteps_places]; decide
  | regWrite addr data => exact (by decide : ((regWriteSteps 0 []).map Prod.fst).Nodup)
  | regRead addr len => exact (by decide : ((regReadSteps 0 0).map Prod.fst).Nodup)
  | rssiRead addr len => exact (by decide : ((rssiReadSteps 0 0).map Prod.fst).Nodup)
  | eepromWrite => decide
  | eepromRead => decide
  | noiseInit => decide
  | tlmExtract rxb => exact (by decide : ((tlmExtractSteps []).map Prod.fst).Nodup)
  | commit w => rw [stepListOf_commitInstr, setCommitSteps_places]; decide

/-- An operation in progress runs the step its place names. -/
theorem exec_at {i op : Instr} {s : State} {loc : Loc} {m : Micro} {rest : StepList}
    (hs : (loc, m) :: rest <:+ stepListOf i) (hphase : s.phase = .run op loc) :
    exec i s = .next (settleStep i loc rest (runMicro m s)) := by
  have hl : Listed i := listed_of_stepListOf_ne_nil fun h => by simp [h] at hs
  rw [hl.exec_eq, runSteps_eq]
  rw [hphase]
  exact fromLoc_suffix_head hl.places_nodup hs

/-- In idle an operation runs its first step. -/
theorem exec_idle {i : Instr} {s : State} {loc : Loc} {m : Micro} {rest : StepList}
    (hs : stepListOf i = (loc, m) :: rest) (hphase : s.phase = .idle) :
    exec i s = .next (settleStep i loc rest (runMicro m s)) := by
  have hl : Listed i := listed_of_stepListOf_ne_nil fun h => by simp [h] at hs
  rw [hl.exec_eq, runSteps_eq]
  rw [hphase]
  exact hs

/-! ### Operations of one step -/

/-- What an operation of one step can leave of `u`, apart from its response: a new record (the setters and
`SET_RECORD`), poll interval, telemetry state or sent counter, the reply that arrived, used free values. -/
inductive AtOnce : Instr → State → State → Prop where
  | record {i : Instr} (h : writesRecordAtOnce i) (u : State) (r : Record) : AtOnce i u { u with record := r }
  | pollInterval (us : Word) (u : State) : AtOnce (.setPoll us) u { u with pollInterval := us }
  | tlmReset (u : State) : AtOnce .tlmReset u { u with
      tlmCarry := false, rxSegments := 0, txSegments := 0, smp := [], seg := [], tail := none, diag := 0 }
  | txSegInc (u : State) : AtOnce .txSegInc u { u with txSegments := u.txSegments + 1 }
  | reply (h0 h1 h2 : Byte) (data : List Byte) (u : State) (frame : List Byte) (e : Event) :
      AtOnce (.wireReply h0 h1 h2 data) u { u with rxf := frame.take frameMax, trace := e :: u.trace }
  | frees (i : Instr) (u : State) (n : Nat) : AtOnce i u { u with frees := n }

/-- The response and the state of an operation of one step. -/
def AnswersAtOnce (i : Instr) (s : State) (o : Host.Outcome State Fault Refusal) : Prop :=
  ∃ packet u, o = .next (respond packet u) ∧ responseOk packet = true ∧ AtOnce i s u

theorem responseOk_done (result : List Byte) : responseOk (0 :: result) = true := by simp [responseOk]

theorem finish_answersAtOnce {i : Instr} {s u : State} (result : List Byte) (h : AtOnce i s u) :
    AnswersAtOnce i s (.next (finish result u)) := ⟨_, u, rfl, responseOk_done result, h⟩

theorem setField_answersAtOnce {i : Instr} (h : writesRecordAtOnce i) (w : FieldWrite) (s : State) :
    AnswersAtOnce i s (setField w s) := by
  unfold setField
  rcases checkedStep_cases (fieldLegal w) (finish [] { s with record := fieldApply w s.record }) s with
    ⟨-, hx⟩ | ⟨-, hx⟩ <;> rw [hx]
  · exact finish_answersAtOnce [] (.record h s _)
  · exact ⟨_, s, rfl, rfl, .frees i s s.frees⟩

theorem c2lStep_answersAtOnce (i : Instr) (t : CodecTable) (code : Byte) (s : State) :
    AnswersAtOnce i s (c2lStep t code s) := by
  unfold c2lStep
  split
  · exact finish_answersAtOnce _ (.frees i s s.frees)
  · exact finish_answersAtOnce _ (.frees i s _)

theorem exec_answersAtOnce {i : Instr} (h : stepListOf i = []) (s : State) :
    AnswersAtOnce i s (exec i s) := by
  cases i with
  | wireReply h0 h1 h2 data => exact finish_answersAtOnce _ (.reply h0 h1 h2 data s _ _)
  | setPoll us => exact finish_answersAtOnce _ (.pollInterval us s)
  | tlmReset => exact finish_answersAtOnce _ (.tlmReset s)
  | txSegInc => exact finish_answersAtOnce _ (.txSegInc s)
  | tlmGet => exact finish_answersAtOnce _ (.frees _ s _)
  | getRecord => exact finish_answersAtOnce _ (.frees _ s _)
  | setRecord img => exact finish_answersAtOnce _ (.record (by simp [writesRecordAtOnce]) s _)
  | l2cBaud | l2cParity | l2cAir | l2cPacket | l2cPower | l2cWor | c2nBaud | c2nParity =>
    exact finish_answersAtOnce _ (.frees _ s s.frees)
  | c2lBaud | c2lParity | c2lAir | c2lPacket | c2lPower | c2lWor => exact c2lStep_answersAtOnce _ _ _ s
  | setAddr | setNetid | setBaud | setAir | setParity | setPacket | setPower | setChannel | setKey | setNoiseEn
  | setRssiEn | setFixed | setRepeater | setLbt | setWor | setWorCycle =>
    exact setField_answersAtOnce (by simp [writesRecordAtOnce]) _ s
  | _ => cases h

/-! ### What an operation and a step can do -/

/-- A step of a list: `i` stands at `loc`, or begins there, and the sequencer settles what the step did. -/
structure RunsMicro (i : Instr) (s t : State) (loc : Loc) (m : Micro) (rest : StepList) : Prop where
  suffix : (loc, m) :: rest <:+ stepListOf i
  place : (s.phase = .idle ∧ stepListOf i = (loc, m) :: rest) ∨ ∃ op, s.phase = .run op loc
  settled : t = settleStep i loc rest (runMicro m s)

theorem RunsMicro.mem {i : Instr} {s t : State} {loc : Loc} {m : Micro} {rest : StepList}
    (h : RunsMicro i s t loc m rest) : (loc, m) ∈ stepListOf i := h.suffix.subset List.mem_cons_self

theorem exec_cases {i : Instr} {s t : State} (h : exec i s = .next t) :
    (stepListOf i = [] ∧ ∃ packet u, t = respond packet u ∧ responseOk packet = true ∧ AtOnce i s u) ∨
    ∃ loc m rest, RunsMicro i s t loc m rest := by
  by_cases hi : stepListOf i = []
  · obtain ⟨packet, u, hu, hok, hat⟩ := exec_answersAtOnce hi s
    rw [h] at hu
    cases hu
    exact .inl ⟨hi, packet, u, rfl, hok, hat⟩
  · rw [(listed_of_stepListOf_ne_nil hi).exec_eq] at h
    obtain ⟨loc, m, rest, hr, ht⟩ := runSteps_cases h
    refine .inr ⟨loc, m, rest, hr ▸ remaining_suffix _ _, ?_, ht⟩
    cases hp : s.phase with
    | idle => rw [hp] at hr; exact .inl ⟨rfl, hr⟩
    | run op l =>
      rw [hp] at hr
      obtain rfl : loc = l := fromLoc_head hr
      exact .inr ⟨op, rfl⟩

/-- The state with these packets still to be offered and these samples of the reset input still to come. -/
def State.withPorts (cmds : List (List Byte)) (pins : List Bool) (s : State) : State :=
  { s with hostCmds := cmds, resetPin := pins }

/-- A step without reset waits for a packet, refuses one, or runs the current operation. -/
theorem step_cases {s t : State} (hr : resetAsserted s = false) (h : step s = .next t) :
    ∃ cmds pins,
      (s.phase = .idle ∧ t = s.withPorts cmds pins) ∨
      (s.phase = .idle ∧ t = respond [1] (s.withPorts cmds pins)) ∨
      ∃ i, current s = some i ∧ (s.phase = .idle ∨ ∃ loc, s.phase = .run i loc) ∧
        exec i (s.withPorts cmds pins) = .next t := by
  cases hp : s.phase with
  | run op loc =>
    rw [step_running hr hp] at h
    exact ⟨s.hostCmds, s.resetPin.tail, .inr (.inr ⟨op, by simp [current, hp], .inr ⟨loc, rfl⟩, h⟩)⟩
  | idle =>
    rw [step_idle hr hp] at h
    cases ho : offered s with
    | none =>
      rw [ho] at h
      cases h
      exact ⟨s.hostCmds, s.resetPin.tail, .inl ⟨rfl, rfl⟩⟩
    | some d =>
      cases d with
      | error e =>
        rw [ho] at h
        cases h
        exact ⟨s.hostCmds.tail, s.resetPin.tail, .inr (.inl ⟨rfl, rfl⟩)⟩
      | ok i =>
        rw [ho] at h
        exact ⟨s.hostCmds.tail, s.resetPin.tail,
          .inr (.inr ⟨i, by simp [current, hp, ho], .inl rfl, h⟩)⟩

end Sys2Proof.Machine

/-!
PROOFS. Which state each step of a step list writes, and where in its operation each writing step stands: the facts
behind the statements that only its own operation writes a piece of state (spec/10_state.md R21 to R44).
-/

namespace Sys2Proof.Machine

/-! ### What a step writes -/

/-- Record, identification block, floor and select latches are each written by one kind of step. -/
structure WritesOnlyItsOwn (m : Micro) (s t : State) : Prop where
  record : t.record ≠ s.record → m = .commit true ∨ m = .refresh
  pid : t.pid ≠ s.pid → m = .refresh
  floor : t.floor ≠ s.floor → m = .setFloor
  mA : t.mA ≠ s.mA → ∃ v, m = .drive .a v
  mB : t.mB ≠ s.mB → ∃ v, m = .drive .b v

/-- A step that writes none of them. -/
theorem WritesOnlyItsOwn.of_eq {m : Micro} {s t : State} (hr : t.record = s.record) (hp : t.pid = s.pid)
    (hf : t.floor = s.floor) (ha : t.mA = s.mA) (hb : t.mB = s.mB) : WritesOnlyItsOwn m s t :=
  ⟨fun h => absurd hr h, fun h => absurd hp h, fun h => absurd hf h, fun h => absurd ha h,
    fun h => absurd hb h⟩

theorem runMicro_writesOnlyItsOwn (m : Micro) (s : State) :
    WritesOnlyItsOwn m s (runMicro m s).state := by
  cases m with
  | require holds f => cases holds <;> exact .of_eq rfl rfl rfl rfl rfl
  | transCheck t =>
    rcases transCheckStep_cases t s with ⟨h, -⟩ | ⟨b, p, h⟩ <;> rw [runMicro, h] <;>
      exact .of_eq rfl rfl rfl rfl rfl
  | poll =>
    rcases pollStep_cases s with ⟨-, h⟩ | ⟨-, h⟩ | ⟨-, h⟩ <;> rw [runMicro, h] <;>
      exact .of_eq rfl rfl rfl rfl rfl
  | drive l v =>
    rcases driveStep_cases l v s with ⟨-, h⟩ | ⟨-, h⟩ <;> rw [runMicro, h]
    · cases l with
      | a => exact ⟨(absurd rfl ·), (absurd rfl ·), (absurd rfl ·), fun _ => ⟨v, rfl⟩, (absurd rfl ·)⟩
      | b => exact ⟨(absurd rfl ·), (absurd rfl ·), (absurd rfl ·), (absurd rfl ·), fun _ => ⟨v, rfl⟩⟩
    · cases l <;> exact .of_eq rfl rfl rfl rfl rfl
  | uartConfigure =>
    rcases uartConfigureStep_cases s with ⟨-, h⟩ | ⟨-, h⟩ <;> rw [runMicro, h] <;>
      exact .of_eq rfl rfl rfl rfl rfl
  | uartReadRule a b =>
    rcases uartReadRuleStep_cases a b s with ⟨-, h⟩ | ⟨-, h⟩ <;> rw [runMicro, h] <;>
      exact .of_eq rfl rfl rfl rfl rfl
  | send =>
    rcases sendStep_cases s with ⟨-, h⟩ | ⟨-, h⟩ <;> rw [runMicro, h] <;> exact .of_eq rfl rfl rfl rfl rfl
  | flush =>
    rcases flushStep_cases s with ⟨-, h⟩ | ⟨-, h⟩ <;> rw [runMicro, h] <;> exact .of_eq rfl rfl rfl rfl rfl
  | recv k =>
    rcases recvStep_cases k s with ⟨-, h⟩ | ⟨l, -, -, h⟩ | ⟨l, -, -, h⟩ <;> rw [runMicro, h] <;>
      exact .of_eq rfl rfl rfl rfl rfl
  | recvEcho =>
    rcases recvStep_cases s.txf.length s with ⟨-, h⟩ | ⟨l, -, -, h⟩ | ⟨l, -, -, h⟩ <;> rw [runMicro, h] <;>
      exact .of_eq rfl rfl rfl rfl rfl
  | checkEcho =>
    rcases checkEchoStep_cases s with ⟨-, h⟩ | ⟨-, h⟩ <;> rw [runMicro, h] <;>
      exact .of_eq rfl rfl rfl rfl rfl
  | commit fromStaged =>
    cases fromStaged with
    | false => exact .of_eq rfl rfl rfl rfl rfl
    | true =>
      exact ⟨fun _ => .inl rfl, (absurd rfl ·), (absurd rfl ·), (absurd rfl ·), (absurd rfl ·)⟩
  | refresh =>
    exact ⟨fun _ => .inr rfl, fun _ => rfl, (absurd rfl ·), (absurd rfl ·), (absurd rfl ·)⟩
  | setFloor =>
    exact ⟨(absurd rfl ·), (absurd rfl ·), fun _ => rfl, (absurd rfl ·), (absurd rfl ·)⟩
  | clearExtract legal => cases legal <;> exact .of_eq rfl rfl rfl rfl rfl
  | _ => exact .of_eq rfl rfl rfl rfl rfl

/-! ### Where the writing steps stand -/

/-- The place of a writing step in the operation `i`: the commit point (R196, R274 step 3), step 3 of `EEPROM_READ`
(R276), step 2 of `NOISE_INIT` (R280), steps 3 and 4 of a transition (R223), the steps of `TLM_EXTRACT` (R304); and
no check of a list raises the reserved class (R345). -/
def Placed (i : Instr) (loc : Loc) : Micro → Prop
  | .commit true => ∃ w, i = commitInstr w ∧ loc = ⟨3, [3], none⟩
  | .refresh => i = .eepromRead ∧ loc = ⟨3, [], none⟩
  | .setFloor => i = .noiseInit ∧ loc = ⟨2, [], none⟩
  | .drive .a _ => loc.sub = some 3
  | .drive .b _ => loc.sub = some 4
  | .require _ f => f ≠ .resourceFault
  | .clearExtract _ | .beginScan | .scanBuffer _ | .storeTail _ | .markDeferred | .keepCarry | .doneExtract =>
    ∃ rxb, i = .tlmExtract rxb
  | _ => True

theorem placed_of_extracts {i : Instr} {loc : Loc} {m : Micro} (hm : m.extracts = true)
    (h : Placed i loc m) : ∃ rxb, i = .tlmExtract rxb := by
  cases m with
  | clearExtract | beginScan | scanBuffer | storeTail | markDeferred | keepCarry | doneExtract => exact h
  | _ => cases hm

/-- Every step of the list is placed. -/
def AllPlaced (i : Instr) (p : StepList) : Prop := ∀ e ∈ p, Placed i e.1 e.2

theorem allPlaced_nil (i : Instr) : AllPlaced i [] := by simp [AllPlaced]

theorem allPlaced_cons_iff {i : Instr} {e : Loc × Micro} {p : StepList} :
    AllPlaced i (e :: p) ↔ Placed i e.1 e.2 ∧ AllPlaced i p := by simp [AllPlaced]

theorem AllPlaced.cons {i : Instr} {e : Loc × Micro} {p : StepList} (he : Placed i e.1 e.2)
    (hp : AllPlaced i p) : AllPlaced i (e :: p) := allPlaced_cons_iff.2 ⟨he, hp⟩

theorem AllPlaced.append {i : Instr} {p q : StepList} (hp : AllPlaced i p) (hq : AllPlaced i q) :
    AllPlaced i (p ++ q) := List.forall_mem_append.2 ⟨hp, hq⟩

theorem transitionSteps_placed (i : Instr) {place : Option Nat → Loc} (hplace : ∀ k, (place k).sub = k)
    (t : Mode) : AllPlaced i (transitionSteps place t) := by
  simp [transitionSteps, allPlaced_cons_iff, allPlaced_nil, Placed, hplace]

theorem writeExchange_placed (i : Instr) (place : Nat → Option Nat → Loc) {load : Micro}
    (hload : Placed i (place 4 none) load) : AllPlaced i (writeExchange place load) :=
  .cons hload (by simp [allPlaced_cons_iff, allPlaced_nil, Placed])

theorem writeBody_placed (i : Instr) {place : Nat → Option Nat → Loc} (hplace : ∀ n k, (place n k).sub = k)
    {load : Micro} (hload : Placed i (place 4 none) load) : AllPlaced i (writeBody place load) :=
  (transitionSteps_placed i (hplace 3) .config).append (writeExchange_placed i place hload)

theorem readExchange_placed (i : Instr) (place : Nat → Option Nat → Loc) (frame : List Byte) (len : Nat) :
    AllPlaced i (readExchange place frame len) := by
  simp [readExchange, allPlaced_cons_iff, allPlaced_nil, Placed]

theorem readBody_placed (i : Instr) {place : Nat → Option Nat → Loc} (hplace : ∀ n k, (place n k).sub = k)
    (addr len : Byte) : AllPlaced i (readBody place addr len) :=
  (transitionSteps_placed i (hplace 3) .config).append
    ((readExchange_placed i place _ _).append (transitionSteps_placed i (hplace 8) .normal))

theorem rssiBody_placed (i : Instr) (place : Nat → Option Nat → Loc) (addr len : Byte) :
    AllPlaced i (rssiBody place addr len) :=
  .cons trivial ((readExchange_placed i place _ _).append (.cons trivial (allPlaced_nil i)))

theorem eepromWriteSteps_placed (i : Instr) {place : Nat → List Nat → Option Nat → Loc}
    (hplace : ∀ n calls k, (place n calls k).sub = k) {fromStaged : Bool}
    (hcommit : Placed i (place 3 [] none) (.commit fromStaged)) :
    AllPlaced i (eepromWriteSteps place fromStaged) :=
  .cons trivial ((writeBody_placed i (fun n k => hplace 2 [n] k) (load := .loadImage) trivial).append
    (.cons hcommit ((transitionSteps_placed i (hplace 4 []) .normal).append
      (.cons trivial (allPlaced_nil i)))))

/-- Every writing step of every operation stands at its place. -/
theorem stepListOf_placed (i : Instr) : AllPlaced i (stepListOf i) := by
  have hcheck : ∀ (loc : Loc) (b : Bool) (f : FaultClass), f ≠ .resourceFault →
      Placed i loc (.require b f) := fun _ _ _ h => h
  have hsub : ∀ (n : Nat) (k : Option Nat), (topLoc n k).sub = k := fun _ _ => rfl
  by_cases hi : stepListOf i = []
  · rw [hi]; exact allPlaced_nil i
  have hl := listed_of_stepListOf_ne_nil hi
  clear hi
  cases hl with
  | wireW addr data =>
    exact (writeExchange_placed _ _ (load := .load (frameW addr data)) trivial).append
      (.cons trivial (allPlaced_nil _))
  | wireR addr len => exact (readExchange_placed _ _ _ _).append (.cons trivial (allPlaced_nil _))
  | wireQ addr len => exact (readExchange_placed _ _ _ _).append (.cons trivial (allPlaced_nil _))
  | mode t =>
    rw [stepListOf_modeInstr]
    exact (transitionSteps_placed _ (hsub 1) t).append (.cons trivial (allPlaced_nil _))
  | regWrite addr data =>
    exact .cons (hcheck _ _ _ (by decide)) (.cons (hcheck _ _ _ (by decide))
      ((writeBody_placed _ hsub (load := .load (frameW addr data)) trivial).append
        ((transitionSteps_placed _ (hsub 10) .normal).append (.cons trivial (allPlaced_nil _)))))
  | regRead addr len =>
    exact .cons (hcheck _ _ _ (by decide)) (.cons (hcheck _ _ _ (by decide))
      ((readBody_placed _ hsub addr len).append (.cons trivial (allPlaced_nil _))))
  | rssiRead addr len =>
    exact .cons (hcheck _ _ _ (by decide)) (.cons (hcheck _ _ _ (by decide))
      ((rssiBody_placed _ topLoc addr len).append (.cons trivial (allPlaced_nil _))))
  | eepromWrite => exact eepromWriteSteps_placed _ (fun _ _ _ => rfl) trivial
  | eepromRead =>
    exact (readBody_placed _ (fun _ _ => rfl) _ _).append (.cons trivial
      ((readBody_placed _ (fun _ _ => rfl) _ _).append (.cons ⟨rfl, rfl⟩ (.cons trivial (allPlaced_nil _)))))
  | noiseInit =>
    exact (rssiBody_placed _ _ _ _).append (.cons ⟨rfl, rfl⟩ (.cons trivial (allPlaced_nil _)))
  | tlmExtract rxb => simp [stepListOf, tlmExtractSteps, allPlaced_cons_iff, allPlaced_nil, Placed]
  | commit w =>
    rw [stepListOf_commitInstr]
    exact .cons (hcheck _ _ _ (by decide)) (.cons trivial
      (eepromWriteSteps_placed _ (fun _ _ _ => rfl) ⟨w, rfl, rfl⟩))

/-- The steps with which lists begin: checks, loads, staging, the read rule, step 1 of `TLM_EXTRACT`. -/
def Micro.opens : Micro → Bool
  | .require _ _ | .transCheck _ | .load _ | .encodeImage _ | .uartReadRule _ _ | .clearExtract _ => true
  | _ => false

/-- No operation begins with a step that writes the record, the identification block, the floor or a latch. -/
theorem stepListOf_head_opens {i : Instr} {loc : Loc} {m : Micro} {rest : StepList}
    (h : stepListOf i = (loc, m) :: rest) : m.opens = true := by
  have hall : ∀ e ∈ (stepListOf i).head?, e.2.opens = true := by
    have hl := listed_of_stepListOf_ne_nil (i := i) (by simp [h])
    clear h
    cases hl with
    | mode t => rw [stepListOf_modeInstr]; rintro e ⟨⟩; rfl
    | commit w => rw [stepListOf_commitInstr]; rintro e ⟨⟩; rfl
    | _ => rintro e ⟨⟩; rfl
  rw [h] at hall
  exact hall _ rfl

end Sys2Proof.Machine

/-!
PROOFS. Who writes each piece of state, for a whole step of the machine (spec/10_state.md R21 to R44).
-/

namespace Sys2Proof.Machine

theorem settleStep_eq_state (op : Instr) (loc : Loc) (rest : StepList) (x : StepResult) :
    ∃ ph rs, settleStep op loc rest x = { x.state with phase := ph, responses := rs } := by
  cases x <;> exact ⟨_, _, rfl⟩

/-- Each piece of state changes only in its own operations and places; `c` is the operation that runs, `p` the
place it stands at. -/
structure HasOnlyItsWriters (c : Option Instr) (p : Option Loc) (s t : State) : Prop where
  record : t.record ≠ s.record → ∃ i, c = some i ∧ (writesRecordAtOnce i ∨ writesRecordHere i p)
  pid : t.pid ≠ s.pid → c = some .eepromRead ∧ p = some ⟨3, [], none⟩
  pollInterval : t.pollInterval ≠ s.pollInterval → ∃ us, c = some (.setPoll us)
  floor : t.floor ≠ s.floor → c = some .noiseInit ∧ p = some ⟨2, [], none⟩
  txSegments : t.txSegments ≠ s.txSegments → c = some .txSegInc ∨ c = some .tlmReset
  telemetry : t.tlmCarry ≠ s.tlmCarry ∨ t.rxSegments ≠ s.rxSegments ∨ t.smp ≠ s.smp ∨ t.seg ≠ s.seg ∨
    t.tail ≠ s.tail ∨ t.diag ≠ s.diag → c = some .tlmReset ∨ ∃ rxb, c = some (.tlmExtract rxb)
  mA : t.mA ≠ s.mA → ∃ loc, p = some loc ∧ loc.sub = some 3
  mB : t.mB ≠ s.mB → ∃ loc, p = some loc ∧ loc.sub = some 4

/-- Nothing is written while the block waits for a packet or refuses one. -/
theorem HasOnlyItsWriters.ports (c : Option Instr) (p : Option Loc) (s : State) (cmds : List (List Byte))
    (pins : List Bool) : HasOnlyItsWriters c p s (s.withPorts cmds pins) := by
  constructor <;> simp [State.withPorts]

theorem HasOnlyItsWriters.respond {c : Option Instr} {p : Option Loc} {s t : State}
    (h : HasOnlyItsWriters c p s t) (packet : List Byte) : HasOnlyItsWriters c p s (respond packet t) :=
  ⟨h.record, h.pid, h.pollInterval, h.floor, h.txSegments, h.telemetry, h.mA, h.mB⟩

theorem AtOnce.hasOnlyItsWriters {i : Instr} {s u : State} (h : AtOnce i s u) (p : Option Loc) :
    HasOnlyItsWriters (some i) p s u := by
  cases h with
  | record hi => constructor <;> simp [hi]
  | _ => constructor <;> simp

/-- A step that no list begins with runs where `phase` stands. -/
theorem RunsMicro.placeOf_eq {i : Instr} {s t : State} {loc : Loc} {m : Micro} {rest : StepList}
    (h : RunsMicro i s t loc m rest) (hm : m.opens = false) : placeOf s.phase = some loc := by
  rcases h.place with ⟨-, hhead⟩ | ⟨op, hp⟩
  · simp [stepListOf_head_opens hhead] at hm
  · rw [hp]; rfl

theorem RunsMicro.hasOnlyItsWriters {i : Instr} {s t : State} {loc : Loc} {m : Micro} {rest : StepList}
    (h : RunsMicro i s t loc m rest) : HasOnlyItsWriters (some i) (placeOf s.phase) s t := by
  obtain ⟨ph, rs, ht⟩ := settleStep_eq_state i loc rest (runMicro m s)
  have hplaced : Placed i loc m := stepListOf_placed i _ h.mem
  have hstands := h.placeOf_eq
  have hw := runMicro_writesOnlyItsOwn m s
  obtain ⟨⟨hpoll, htx, -⟩, htlm⟩ := runMicro_frame m s
  rw [h.settled, ht]
  constructor
  case record =>
    intro hne
    refine ⟨i, rfl, .inr ?_⟩
    rcases hw.record hne with rfl | rfl
    · obtain ⟨w, hi, hloc⟩ := hplaced
      exact .inl ⟨⟨w, hi⟩, hloc ▸ hstands rfl⟩
    · exact .inr ⟨hplaced.1, hplaced.2 ▸ hstands rfl⟩
  case pid =>
    intro hne
    obtain rfl := hw.pid hne
    exact ⟨congrArg some hplaced.1, hplaced.2 ▸ hstands rfl⟩
  case floor =>
    intro hne
    obtain rfl := hw.floor hne
    exact ⟨congrArg some hplaced.1, hplaced.2 ▸ hstands rfl⟩
  case mA =>
    intro hne
    obtain ⟨v, rfl⟩ := hw.mA hne
    exact ⟨loc, hstands rfl, hplaced⟩
  case mB =>
    intro hne
    obtain ⟨v, rfl⟩ := hw.mB hne
    exact ⟨loc, hstands rfl, hplaced⟩
  case pollInterval => exact (absurd hpoll ·)
  case txSegments => exact (absurd htx ·)
  case telemetry =>
    intro hne
    cases hm : m.extracts with
    | false => simp [htlm hm] at hne
    | true =>
      obtain ⟨rxb, hi⟩ := placed_of_extracts hm hplaced
      exact .inr ⟨rxb, congrArg some hi⟩

theorem step_hasOnlyItsWriters {s t : State} (hr : resetAsserted s = false) (h : step s = .next t) :
    HasOnlyItsWriters (current s) (placeOf s.phase) s t := by
  obtain ⟨cmds, pins, ⟨-, rfl⟩ | ⟨-, rfl⟩ | ⟨i, hi, -, hx⟩⟩ := step_cases hr h
  · exact .ports _ _ s cmds pins
  · exact (HasOnlyItsWriters.ports _ _ s cmds pins).respond [1]
  · rw [hi]
    have hu : HasOnlyItsWriters (some i) (placeOf s.phase) (s.withPorts cmds pins) t := by
      rcases exec_cases hx with ⟨-, packet, u, rfl, -, hat⟩ | ⟨loc, m, rest, hm⟩
      · exact (hat.hasOnlyItsWriters _).respond packet
      · exact hm.hasOnlyItsWriters
    exact ⟨hu.record, hu.pid, hu.pollInterval, hu.floor, hu.txSegments, hu.telemetry, hu.mA, hu.mB⟩

/-! ### Every step goes on -/

theorem exec_isNext_of_idle (i : Instr) {s : State} (h : s.phase = .idle) : ∃ t, exec i s = .next t := by
  cases hi : stepListOf i with
  | nil =>
    obtain ⟨packet, u, hu, -⟩ := exec_answersAtOnce hi s
    exact ⟨_, hu⟩
  | cons e rest => exact ⟨_, exec_idle hi h⟩

theorem exec_isNext_of_phaseOk {i : Instr} {loc : Loc} {s : State} (hp : s.phase = .run i loc)
    (h : phaseOk s = true) : ∃ t, exec i s = .next t := by
  simp only [phaseOk, hp, Bool.or_eq_true, List.isEmpty_iff, List.any_eq_true, decide_eq_true_eq] at h
  rcases h with hi | ⟨e, he, hloc⟩
  · obtain ⟨packet, u, hu, -⟩ := exec_answersAtOnce hi s
    exact ⟨_, hu⟩
  · obtain ⟨pre, rest, hl⟩ := List.append_of_mem he
    obtain ⟨l, m⟩ := e
    cases hloc
    exact ⟨_, exec_at ⟨pre, hl.symm⟩ hp⟩

end Sys2Proof.Machine

/-!
PROOFS. The statements of spec/10_state.md.
-/

namespace Sys2Proof.Proofs

open Sys2Proof Sys2Proof.Machine

/-- Settles O21, by who writes what in one step. -/
theorem recordHasOnlyItsWriters : Obligations.RecordHasOnlyItsWriters :=
  fun _ _ hr h => (step_hasOnlyItsWriters hr h).record

/-- Settles O60, by who writes what in one step. -/
theorem otherStateHasOnlyItsWriters : Obligations.OtherStateHasOnlyItsWriters := by
  intro s t hr h
  have hw := step_hasOnlyItsWriters hr h
  exact ⟨hw.pid, hw.pollInterval, hw.floor, hw.txSegments, hw.telemetry, hw.mA, hw.mB⟩

/-- Settles O58: in idle every operation has a first step, and a place of a list names one. -/
theorem noStepEverStops : Obligations.NoStepEverStops := by
  intro s hok
  cases hr : resetAsserted s with
  | true => exact ⟨_, step_reset hr⟩
  | false =>
    cases hp : s.phase with
    | run op loc =>
      rw [step_running hr hp]
      exact exec_isNext_of_phaseOk (s := sampleReset s) hp hok
    | idle =>
      rw [step_idle hr hp]
      cases offered s with
      | none => exact ⟨_, rfl⟩
      | some d =>
        cases d with
        | error e => exact ⟨_, rfl⟩
        | ok i => exact exec_isNext_of_idle i (s := takePacket (sampleReset s)) hp

/-- Settles O53: `step_running` and `step_idle`, at the packet that is offered. -/
theorem stepRunsTheDecodedInstruction : Obligations.StepRunsTheDecodedInstruction := by
  intro s hr
  refine ⟨fun op loc hp => step_running hr hp, fun packet others i hp hc hd => ?offered,
    fun hp hc => ?waiting⟩
  case offered =>
    have ho : offered s = some (.ok i) := by simp [offered, hc, hd]
    rw [step_idle hr hp, ho]
    simp [takePacket, sampleReset, hc]
  case waiting =>
    have ho : offered s = none := by simp [offered, hc]
    rw [step_idle hr hp, ho]
    rfl

/-- Settles O55: the state after reset, read off field by field. -/
theorem resetValuesOfTheSpec : Obligations.ResetValuesOfTheSpec := by
  unfold Obligations.ResetValuesOfTheSpec
  decide

end Sys2Proof.Proofs

/-!
PROOFS. The steps of a transition and of a read rule with the answer the environment gives (spec/10_state.md R36,
R62; spec/42_mode_controller.md R223, R230), and where they stand in the operations that run them.
-/

namespace Sys2Proof.Machine

/-! ### One answered event -/

theorem nextAck_of_cons {s : State} {a : AckAnswer} {acks : List AckAnswer} (h : s.ackIn = a :: acks) :
    nextAck s = a := by simp [nextAck, h]

theorem afterAck_of_cons {s : State} {a : AckAnswer} {acks : List AckAnswer} (p : PortEvent)
    (h : s.ackIn = a :: acks) : afterAck p s = { s with
      ackIn := acks, frees := s.frees + 1, trace := ⟨p, ackAnswer a⟩ :: s.trace } := by
  simp [afterAck, logEvent, nextAck_of_cons h, h]

theorem poll_err {s : State} {busy : List BusyAnswer} (h : s.busyIn = .err :: busy) :
    runMicro .poll s = .raise .ioFault { s with
      busyIn := busy, frees := s.frees + 1, trace := ⟨.gRd, .err⟩ :: s.trace } := by
  simp [runMicro, pollStep, afterBusy, nextBusy, h, logEvent, busyAnswer]

theorem drive_ok {s : State} {acks : List AckAnswer} (l : Line) (v : Bool) (h : s.ackIn = .ok :: acks) :
    runMicro (.drive l v) s = .go (setLine l v { s with
      ackIn := acks, frees := s.frees + 1, trace := ⟨.gWr l v, .ok⟩ :: s.trace }) := by
  rw [runMicro, driveStep, nextAck_of_cons h, afterAck_of_cons _ h]; rfl

theorem drive_err {s : State} {acks : List AckAnswer} (l : Line) (v : Bool) (h : s.ackIn = .err :: acks) :
    runMicro (.drive l v) s = .raise .ioFault (loseLine l { s with
      ackIn := acks, frees := s.frees + 1, trace := ⟨.gWr l v, .err⟩ :: s.trace }) := by
  rw [runMicro, driveStep, nextAck_of_cons h, afterAck_of_cons _ h]; rfl

theorem uartConfigure_ok {s : State} {acks : List AckAnswer} (h : s.ackIn = .ok :: acks) :
    runMicro .uartConfigure s = .go (setUartCfg s.tb s.tp { s with
      ackIn := acks, frees := s.frees + 1, trace := ⟨.uCfg s.tb s.tp, .ok⟩ :: s.trace }) := by
  rw [runMicro, uartConfigureStep, nextAck_of_cons h, afterAck_of_cons _ h]; rfl

theorem uartConfigure_err {s : State} {acks : List AckAnswer} (h : s.ackIn = .err :: acks) :
    runMicro .uartConfigure s = .raise .ioFault (loseUartCfg { s with
      ackIn := acks, frees := s.frees + 1, trace := ⟨.uCfg s.tb s.tp, .err⟩ :: s.trace }) := by
  rw [runMicro, uartConfigureStep, nextAck_of_cons h, afterAck_of_cons _ h]; rfl

theorem uartReadRule_ok {s : State} {acks : List AckAnswer} (m n : Nat) (h : s.ackIn = .ok :: acks) :
    runMicro (.uartReadRule m n) s = .go (setUartRule m n { s with
      ackIn := acks, frees := s.frees + 1, trace := ⟨.uRule m n, .ok⟩ :: s.trace }) := by
  rw [runMicro, uartReadRuleStep, nextAck_of_cons h, afterAck_of_cons _ h]; rfl

theorem uartReadRule_err {s : State} {acks : List AckAnswer} (m n : Nat) (h : s.ackIn = .err :: acks) :
    runMicro (.uartReadRule m n) s = .raise .ioFault (loseUartRule { s with
      ackIn := acks, frees := s.frees + 1, trace := ⟨.uRule m n, .err⟩ :: s.trace }) := by
  rw [runMicro, uartReadRuleStep, nextAck_of_cons h, afterAck_of_cons _ h]; rfl

/-- An operation in progress whose step completes goes on at the next place. -/
theorem exec_at_go {i op : Instr} {s t : State} {loc next : Loc} {m m' : Micro} {rest : StepList}
    (hs : (loc, m) :: (next, m') :: rest <:+ stepListOf i) (hphase : s.phase = .run op loc)
    (hm : runMicro m s = .go t) : exec i s = .next { t with phase := .run i next } := by
  rw [exec_at hs hphase, hm]; rfl

/-- An operation in progress whose step raises IOFault ends with status 3. -/
theorem exec_at_ioFault {i op : Instr} {s t : State} {loc : Loc} {m : Micro} {rest : StepList}
    (hs : (loc, m) :: rest <:+ stepListOf i) (hphase : s.phase = .run op loc)
    (hm : runMicro m s = .raise .ioFault t) : exec i s = .next (faulted 3 t) := by
  rw [exec_at hs hphase, hm]; rfl

/-- Step 7 of `TLM_EXTRACT` answers in the layout of R122 and drops the working values (R304, R48). -/
theorem exec_tlmExtract_last {rxb : List Byte} {op : Instr} {s : State} {loc : Loc} {rest : StepList}
    (hs : (loc, .doneExtract) :: rest <:+ stepListOf (.tlmExtract rxb)) (hphase : s.phase = .run op loc) :
    exec (.tlmExtract rxb) s = .next (answered (extractResult s) { s with scan := scanEmpty }) := by
  rw [exec_at hs hphase]; rfl

/-! ### Where transitions and read rules stand -/

/-- A block that stands in a list from index `n` on. -/
theorem stands_of_take_drop {p t : StepList} (n : Nat) (h : (p.drop n).take t.length = t) : t <:+: p := by
  have hs := List.take_append_drop t.length (p.drop n)
  rw [h] at hs
  exact ⟨_, _, by rw [List.append_assoc, hs, List.take_append_drop]⟩

theorem suffix_of_drop {p rest : StepList} (n : Nat) (h : p.drop n = rest) : rest <:+ p :=
  h ▸ List.drop_suffix n p

/-- An operation whose list ends at its place with `done` answers the result. -/
theorem exec_last {i op : Instr} {s : State} {loc : Loc} (n : Nat) (r : ResultForm)
    (hs : (stepListOf i).drop n = [(loc, .done r)]) (hphase : s.phase = .run op loc) :
    exec i s = .next (answered (resultBytes r s) s) := by
  rw [exec_at (suffix_of_drop n hs) hphase]; rfl

theorem TransitionAt.steps_stand {i : Instr} {m : Mode} {place : Option Nat → Loc} (h : TransitionAt i m place) :
    transitionSteps place m <:+: stepListOf i := by
  cases h with
  | mode => rw [stepListOf_modeInstr]; exact stands_of_take_drop 0 rfl
  | regWriteOpening addr data => exact stands_of_take_drop 2 rfl
  | regWriteClosing addr data => exact stands_of_take_drop 15 rfl
  | regReadOpening addr len => exact stands_of_take_drop 2 rfl
  | regReadClosing addr len => exact stands_of_take_drop 13 rfl
  | eepromWriteOpening => exact stands_of_take_drop 1 rfl
  | eepromWriteClosing => exact stands_of_take_drop 15 rfl
  | eepromReadOpening n hn =>
    rcases hn with rfl | rfl
    · exact stands_of_take_drop 0 rfl
    · exact stands_of_take_drop 19 rfl
  | eepromReadClosing n hn =>
    rcases hn with rfl | rfl
    · exact stands_of_take_drop 11 rfl
    · exact stands_of_take_drop 30 rfl
  | commitOpening w => rw [stepListOf_commitInstr]; exact stands_of_take_drop 3 rfl
  | commitClosing w => rw [stepListOf_commitInstr]; exact stands_of_take_drop 17 rfl

/-- From each of its steps on, a transition is the rest of the operation's list up to what follows it. -/
theorem TransitionAt.suffix_drop {i : Instr} {m : Mode} {place : Option Nat → Loc} (h : TransitionAt i m place) :
    ∃ post, ∀ k, (transitionSteps place m).drop k ++ post <:+ stepListOf i := by
  obtain ⟨pre, post, hl⟩ := h.steps_stand
  refine ⟨post, fun k => ⟨pre ++ (transitionSteps place m).take k, ?_⟩⟩
  rw [List.append_assoc, ← List.append_assoc _ _ post, List.take_append_drop, ← List.append_assoc, hl]

theorem ReadRuleAt.suffix {i : Instr} {timeout : Nat} {loc : Loc} (h : ReadRuleAt i timeout loc) :
    ∃ rest, (loc, .uartReadRule 0 timeout) :: rest <:+ stepListOf i := by
  cases h with
  | rssiReadGap addr len => exact ⟨_, suffix_of_drop 2 rfl⟩
  | rssiReadImmediate addr len => exact ⟨_, suffix_of_drop 7 rfl⟩
  | noiseInitGap => exact ⟨_, suffix_of_drop 0 rfl⟩
  | noiseInitImmediate => exact ⟨_, suffix_of_drop 5 rfl⟩

end Sys2Proof.Machine

namespace Sys2Proof.Proofs

open Sys2Proof Sys2Proof.Machine

/-- Settles O23: the transition's steps stand one after another in the operation's list, and each completes. -/
theorem transitionStepsSucceed : Obligations.TransitionStepsSucceed := by
  intro i m place hat op s acks hack
  obtain ⟨post, hs⟩ := hat.suffix_drop
  exact ⟨fun hp => exec_at_go (hs 2) hp (drive_ok .a _ hack), fun hp => exec_at_go (hs 3) hp (drive_ok .b _ hack),
    fun hp => exec_at_go (hs 4) hp (uartConfigure_ok hack),
    fun hp => exec_at_go (hs 5) hp (uartReadRule_ok _ _ hack)⟩

/-- Settles O24: at each of its places the step raises IOFault with what the failed event leaves. -/
theorem transitionFaultsStopAtTheStep : Obligations.TransitionFaultsStopAtTheStep := by
  refine ⟨fun i m place hat op s acks busy => ?transition, fun i timeout loc hat op s acks hack hp => ?readRule⟩
  case transition =>
    obtain ⟨post, hs⟩ := hat.suffix_drop
    exact ⟨fun hbusy hp => exec_at_ioFault (hs 1) hp (poll_err hbusy),
      fun hack hp => exec_at_ioFault (hs 2) hp (drive_err .a _ hack),
      fun hack hp => exec_at_ioFault (hs 3) hp (drive_err .b _ hack),
      fun hack hp => exec_at_ioFault (hs 4) hp (uartConfigure_err hack),
      fun hack hp => exec_at_ioFault (hs 5) hp (uartReadRule_err _ _ hack)⟩
  case readRule =>
    obtain ⟨rest, hs⟩ := hat.suffix
    exact exec_at_ioFault hs hp (uartReadRule_err _ _ hack)

/-- Settles O42: the last place of each list holds its `done`. -/
theorem lastStepsAnswerDone : Obligations.LastStepsAnswerDone := by
  intro addr len data w op s
  refine ⟨fun hp => ⟨?normal, ?wor, ?config, ?sleep⟩, fun hp => ?regWrite, fun hp => ⟨?regRead, ?rssiRead⟩,
    fun hp => ?eepromWrite, fun hp => ?eepromRead, fun h0 h1 h2 v hrx hp => ?noiseInit, fun hp => ?commit,
    fun hp => exec_tlmExtract_last (suffix_of_drop 6 rfl) hp, fun hp => ?wireW, fun hp => ⟨?wireR, ?wireQ⟩⟩
  case normal | wor | config | sleep => exact exec_last 7 .nothing rfl hp
  case regWrite | eepromWrite => exact exec_last 22 .nothing rfl hp
  case regRead => exact exec_last 20 (.data len.toNat) rfl hp
  case rssiRead => exact exec_last 8 (.data len.toNat) rfl hp
  case eepromRead => exact exec_last 38 .nothing rfl hp
  case noiseInit =>
    have hv : rxByte s 3 = v := by simp [rxByte, hrx]
    rw [exec_last 7 .floor rfl hp, resultBytes, hv]
  case commit => exact exec_last 24 .nothing (by rw [stepListOf_commitInstr]; rfl) hp
  case wireW => exact exec_last 6 .nothing rfl hp
  case wireR | wireQ => exact exec_last 4 (.data len.toNat) rfl hp

end Sys2Proof.Proofs

/-!
PROOFS. The telemetry extractor (spec/44_telemetry.md R302 to R312): what one byte does to the cursor, the order of
the segments found, and `TLM_EXTRACT` step by step.
-/

namespace Sys2Proof.Machine

/-! ### One byte -/

/-- One byte on the cursor: a telemetry byte, recorded or not; a payload byte inside a segment; a payload byte that
ends a segment, stored or not (R304 to R307, R311). -/
theorem extractByte_cases (q : ExtractParams) (i : Nat) (upTo : List Byte) (b : Byte) (c : Cursor) :
    (c.expect = true ∧ c.smp.length < q.maxSeg ∧
      extractByte q i upTo b c = { c with smp := c.smp ++ [b], expect := false }) ∨
    (c.expect = true ∧ ∃ o, extractByte q i upTo b c = { c with overflow := o, expect := false }) ∨
    (c.expect = false ∧ extractByte q i upTo b c =
      { c with payload := c.payload ++ [b], start := some (c.start.getD i) }) ∨
    (c.expect = false ∧ c.seg.length < q.maxSeg ∧ extractByte q i upTo b c =
      { c with payload := c.payload ++ [b], seg := c.seg ++ [⟨c.start.getD i, i⟩]
               rxSegments := c.rxSegments + 1, start := none, expect := true }) ∨
    (c.expect = false ∧ extractByte q i upTo b c =
      { c with payload := c.payload ++ [b], overflow := true
               rxSegments := c.rxSegments + 1, start := none, expect := true }) := by
  unfold extractByte
  cases he : c.expect with
  | true =>
    rw [if_pos rfl, telemetryByte]
    split
    · split
      · exact .inl ⟨rfl, ‹_›, rfl⟩
      · exact .inr (.inl ⟨rfl, true, rfl⟩)
    · exact .inr (.inl ⟨rfl, c.overflow, rfl⟩)
  | false =>
    rw [if_neg Bool.false_ne_true, payloadByte]
    refine .inr (.inr ?_)
    split
    · rw [closeSegment]
      split
      · exact .inr (.inl ⟨rfl, ‹_›, rfl⟩)
      · exact .inr (.inr ⟨rfl, rfl⟩)
    · exact .inl ⟨rfl, by rw [← he]⟩

/-! ### Segments are ordered -/

/-- After `n` bytes: the segments lie in the buffer, in order, with a byte between; the open segment, or the next
byte where none is open and no telemetry byte is due, leaves that byte too (R46, R306, R308). -/
structure SegmentsOrdered (n : Nat) (c : Cursor) : Prop where
  ranges : ∀ g ∈ c.seg, g.first ≤ g.last ∧ g.last < n
  gaps : c.seg.Pairwise (fun g h => g.last + 1 < h.first)
  openBefore : ∀ first, c.start = some first → first < n
  gapAfter : c.expect = false → ∀ g ∈ c.seg, g.last + 1 < c.start.getD n
  noneOpen : c.expect = true → c.start = none

theorem segmentsOrdered_startCursor (carry : Bool) (count : Word) :
    SegmentsOrdered 0 (startCursor carry count) := by
  constructor <;> simp [startCursor]

/-- An open segment begins before the byte at `n`, or a payload byte at `n` opens one there. -/
theorem getD_le_of_lt {start : Option Nat} {n : Nat} (h : ∀ first, start = some first → first < n) :
    start.getD n ≤ n := by
  cases start with
  | none => exact le_rfl
  | some first => exact (h first rfl).le

theorem SegmentsOrdered.extractByte {n : Nat} {c : Cursor} (h : SegmentsOrdered n c) (q : ExtractParams)
    (upTo : List Byte) (b : Byte) : SegmentsOrdered (n + 1) (extractByte q n upTo b c) := by
  have hranges : ∀ g ∈ c.seg, g.first ≤ g.last ∧ g.last < n + 1 := fun g hg =>
    ⟨(h.ranges g hg).1, (h.ranges g hg).2.trans (Nat.lt_succ_self n)⟩
  have hfirst := getD_le_of_lt h.openBefore
  have telemetry : ∀ d : Cursor, c.expect = true → d.seg = c.seg → d.start = c.start → d.expect = false →
      SegmentsOrdered (n + 1) d := by
    intro d he hseg hstart hexpect
    have hnone := hstart.trans (h.noneOpen he)
    refine ⟨hseg ▸ hranges, hseg ▸ h.gaps, by simp [hnone], fun _ g hg => ?_, by simp [hexpect]⟩
    have := (h.ranges g (hseg ▸ hg)).2
    simp only [hnone, Option.getD_none]
    omega
  rcases extractByte_cases q n upTo b c with ⟨he, -, hx⟩ | ⟨he, o, hx⟩ | ⟨he, hx⟩ | ⟨he, -, hx⟩ | ⟨he, hx⟩ <;>
    rw [hx]
  · exact telemetry _ he rfl rfl rfl
  · exact telemetry _ he rfl rfl rfl
  · refine ⟨hranges, h.gaps, ?_, fun _ => h.gapAfter he, fun hc => ?_⟩
    · rintro _ ⟨⟩
      exact Nat.lt_succ_of_le hfirst
    · exact absurd (he.symm.trans hc) Bool.false_ne_true
  · refine ⟨?_, ?_, by simp, by simp, fun _ => rfl⟩
    · simp only [List.forall_mem_append, List.forall_mem_singleton]
      exact ⟨hranges, hfirst, Nat.lt_succ_self n⟩
    · simp only [List.pairwise_append, List.pairwise_singleton, List.mem_singleton, forall_eq]
      exact ⟨h.gaps, trivial, h.gapAfter he⟩
  · exact ⟨hranges, h.gaps, by simp, by simp, fun _ => rfl⟩

theorem extract_segmentsOrdered (q : ExtractParams) (carry : Bool) (count : Word) (rxb : List Byte) :
    SegmentsOrdered rxb.length (extract q carry count rxb) := by
  induction rxb using List.reverseRecOn with
  | nil => exact segmentsOrdered_startCursor carry count
  | append_singleton rxb b ih =>
    rw [extract_concat, List.length_append]
    exact ih.extractByte q _ b

/-! ### The steps of `TLM_EXTRACT` -/

theorem tlmExtractSteps_extracts (rxb : List Byte) : ∀ e ∈ tlmExtractSteps rxb, e.2.extracts = true := by
  simp [tlmExtractSteps, Micro.extracts]

/-- The steps of `TLM_EXTRACT` have no port event and no response (R304). -/
theorem runMicro_extracts_go {m : Micro} {s t : State} (hm : m.extracts = true) (h : runMicro m s = .go t) :
    t.responses = s.responses ∧ t.trace = s.trace := by
  cases m with
  | clearExtract legal => cases legal <;> cases h; exact ⟨rfl, rfl⟩
  | beginScan | scanBuffer | storeTail | markDeferred | keepCarry => cases h; exact ⟨rfl, rfl⟩
  | doneExtract => cases h
  | _ => cases hm

theorem completes_extracts {ms : List Micro} {s t : State} (hm : ∀ m ∈ ms, m.extracts = true)
    (h : completes ms s = some t) : t.responses = s.responses ∧ t.trace = s.trace := by
  induction ms generalizing s with
  | nil => cases h; exact ⟨rfl, rfl⟩
  | cons m ms ih =>
    obtain ⟨u, hu, ht⟩ := completes_cons_iff.1 h
    obtain ⟨hhead, htail⟩ := List.forall_mem_cons.1 hm
    obtain ⟨hr, htr⟩ := runMicro_extracts_go hhead hu
    obtain ⟨hr', htr'⟩ := ih htail ht
    exact ⟨hr'.trans hr, htr'.trans htr⟩

/-- A run whose first steps complete stands before the step that follows them. -/
theorem runExec_block {i : Instr} {block post : StepList} {loc : Loc} {m : Micro} {s t : State}
    (hl : Listed i) (hs : remaining (stepListOf i) s.phase = block ++ (loc, m) :: post) (hne : block ≠ [])
    (ht : completes (block.map Prod.snd) s = some t) :
    runExec i block.length s = .next (t.withPhase (.run i loc)) := by
  induction block generalizing s t with
  | nil => exact absurd rfl hne
  | cons e block ih =>
    obtain ⟨u, hu, hut⟩ := completes_cons_iff.1 ht
    obtain ⟨d, rest, hrest⟩ : ∃ d rest, block ++ (loc, m) :: post = d :: rest :=
      List.exists_cons_of_ne_nil (by simp)
    have hstep : exec i s = .next (u.withPhase (.run i d.1)) := by
      rw [hl.exec_eq, runSteps_eq (by rw [hs, List.cons_append, hrest]), hu]; rfl
    rw [List.length_cons, runExec_succ hstep]
    by_cases hb : block = []
    · subst hb
      cases hrest
      cases hut
      rfl
    · have hsuffix : d :: rest <:+ stepListOf i := by
        have hall := remaining_suffix (stepListOf i) s.phase
        rw [hs, List.cons_append, hrest] at hall
        exact (List.suffix_cons e _).trans hall
      have hrun := ih (s := u.withPhase (.run i d.1))
        ((fromLoc_suffix_head hl.places_nodup hsuffix).trans hrest.symm) hb (completes_withPhase hut _)
      exact hrun

/-- `runExec_block` for the first `k` steps of an operation in idle. -/
theorem runExec_to_place {i : Instr} {k : Nat} {post : StepList} {loc : Loc} {m : Micro} {s t : State}
    (hl : Listed i) (hp : s.phase = .idle) (hk : 1 ≤ k) (hs : (stepListOf i).drop k = (loc, m) :: post)
    (ht : completes (((stepListOf i).take k).map Prod.snd) s = some t) :
    runExec i k s = .next (t.withPhase (.run i loc)) := by
  have hlen : ((stepListOf i).take k).length = k := by
    have := congrArg List.length hs
    rw [List.length_drop, List.length_cons] at this
    rw [List.length_take]
    omega
  have hall : remaining (stepListOf i) s.phase = (stepListOf i).take k ++ (loc, m) :: post := by
    rw [hp, ← hs, List.take_append_drop]; rfl
  have hne : (stepListOf i).take k ≠ [] := fun h => by simp [h] at hlen; omega
  rw [← runExec_block hl hall hne ht, hlen]

/-- The first `k` steps of a legal `TLM_EXTRACT` complete, and `phase` stands before step `k + 1` (R40, R304). -/
theorem runExec_tlmExtract_to_place {rxb : List Byte} {s : State} (hp : s.phase = .idle)
    (h1 : 1 ≤ rxb.length) (hmax : rxb.length ≤ rxbufMax) {k : Nat} (hk1 : 1 ≤ k) (hk6 : k ≤ 6) :
    ∃ t, completes (((tlmExtractSteps rxb).take k).map Prod.snd) s = some t ∧
      runExec (.tlmExtract rxb) k s = .next (t.withPhase (.run (.tlmExtract rxb) ⟨k + 1, [], none⟩)) := by
  have hclear : runMicro (.clearExtract (decide (1 ≤ rxb.length) && decide (rxb.length ≤ rxbufMax))) s =
      .go (clearExtract s) := by simp [runMicro, h1, hmax]
  obtain ⟨m, post, hdrop⟩ : ∃ m post, (tlmExtractSteps rxb).drop k = (⟨k + 1, [], none⟩, m) :: post := by
    interval_cases k <;> exact ⟨_, _, rfl⟩
  obtain ⟨t, ht⟩ : ∃ t, completes (((tlmExtractSteps rxb).take k).map Prod.snd) s = some t := by
    interval_cases k <;> exact ⟨_, completes_cons hclear rfl⟩
  exact ⟨t, ht, runExec_to_place (.tlmExtract rxb) hp hk1 hdrop ht⟩

/-- What a `TLM_EXTRACT` of `n` bytes that found `c` leaves: the carry is `diag[0]`, the overflow `diag[1]` (R42 to
R47, R310, R311). -/
def extracted (c : Cursor) (n : Nat) (s : State) : State :=
  { s with
    smp := c.smp
    seg := c.seg
    tail := c.start.map (fun first => ⟨first, n - 1⟩)
    diag := BitVec.ofNat 2 (2 * c.overflow.toNat + c.expect.toNat)
    tlmCarry := c.expect
    rxSegments := c.rxSegments
    scan := scanEmpty }

/-- The answer of a `TLM_EXTRACT` that found `c`, in the layout of R122 (R304 step 7). -/
def extractAnswer (c : Cursor) : List Byte :=
  halfBytes (BitVec.ofNat 16 c.payload.length) ++ c.payload ++ [BitVec.ofNat 8 c.smp.length] ++ c.smp ++
    [BitVec.ofNat 8 (2 * c.overflow.toNat + c.expect.toNat), BitVec.ofNat 8 c.expect.toNat]

/-- The state after steps 1 to 6 of R304. -/
def afterStepSix (c : Cursor) (n : Nat) (s : State) : State :=
  keepCarry (markDeferred (storeTail n (storeCursor c (beginScan (clearExtract s)))))

theorem storeTail_tail_of_none {n : Nat} {s : State} (h : s.tail = none) :
    (storeTail n s).tail = s.scan.start.map (fun first => ⟨first, n - 1⟩) := by
  rw [storeTail_tail, h]
  cases s.scan.start <;> rfl

theorem markedDiag_eq_ofNat (expect overflow : Bool) :
    (if expect = true then diagOf true (diagOverflow (diagOf (diagDeferred 0) overflow))
      else diagOf (diagDeferred 0) overflow) = BitVec.ofNat 2 (2 * overflow.toNat + expect.toNat) := by
  revert expect overflow; decide

theorem diagByte_ofNat (expect overflow : Bool) :
    diagByte (BitVec.ofNat 2 (2 * overflow.toNat + expect.toNat)) =
      BitVec.ofNat 8 (2 * overflow.toNat + expect.toNat) := by
  revert expect overflow; decide

theorem flagByte_eq_ofNat (b : Bool) : flagByte b = BitVec.ofNat 8 b.toNat := by
  revert b; decide

theorem afterStepSix_diag (c : Cursor) (n : Nat) (s : State) :
    (afterStepSix c n s).diag = BitVec.ofNat 2 (2 * c.overflow.toNat + c.expect.toNat) :=
  markedDiag_eq_ofNat c.expect c.overflow

theorem afterStepSix_dropped (c : Cursor) (n : Nat) (s : State) :
    { afterStepSix c n s with scan := scanEmpty } = extracted c n s := by
  have htail := storeTail_tail_of_none (n := n) (s := storeCursor c (beginScan (clearExtract s))) rfl
  have hdiag := afterStepSix_diag c n s
  rw [afterStepSix, keepCarry_diag] at hdiag
  simp [afterStepSix, extracted, -storeTail_tail, htail, -markDeferred_diag, hdiag]

theorem extractResult_afterStepSix (c : Cursor) (n : Nat) (s : State) :
    extractResult (afterStepSix c n s) = extractAnswer c := by
  have hcarry : (afterStepSix c n s).tlmCarry = c.expect := rfl
  rw [extractResult, afterStepSix_diag, hcarry, diagByte_ofNat, flagByte_eq_ofNat]
  rfl

theorem completes_tlmExtract {rxb : List Byte} {s t : State}
    (h : completes (((tlmExtractSteps rxb).take 6).map Prod.snd) s = some t)  :
    t = afterStepSix (extract (blockParams s.tlmCarry) s.tlmCarry s.rxSegments rxb) rxb.length s := by
  obtain ⟨u, hu, ht⟩ := completes_cons_iff.1 h
  cases ht
  rw [runMicro] at hu
  split at hu
  · cases hu
    rw [afterStepSix, ← scanBuffer_begun]
  · cases hu

theorem exec_tlmExtract_stepSeven (rxb : List Byte) (c : Cursor) (n : Nat) (s : State) :
    exec (.tlmExtract rxb) ((afterStepSix c n s).withPhase (.run (.tlmExtract rxb) ⟨7, [], none⟩)) =
      .next (answered (extractAnswer c) (extracted c n s)) := by
  rw [exec_tlmExtract_last (suffix_of_drop 6 rfl) rfl, ← extractResult_afterStepSix c n s,
    ← afterStepSix_dropped]
  rfl

/-- A legal `TLM_EXTRACT` from idle to its answer. -/
theorem runExec_tlmExtract {rxb : List Byte} {s : State} (hp : s.phase = .idle) (h1 : 1 ≤ rxb.length)
    (hmax : rxb.length ≤ rxbufMax) {c : Cursor}
    (hc : c = extract (blockParams s.tlmCarry) s.tlmCarry s.rxSegments rxb) :
    runExec (.tlmExtract rxb) 7 s = .next (answered (extractAnswer c) (extracted c rxb.length s)) := by
  obtain ⟨t, ht, hrun⟩ := runExec_tlmExtract_to_place hp h1 hmax (k := 6) (by decide) le_rfl
  rw [completes_tlmExtract ht, ← hc] at hrun
  rw [runExec_add 1 hrun, runExec_succ (exec_tlmExtract_stepSeven rxb c rxb.length s), runExec]

end Sys2Proof.Machine

namespace Sys2Proof.Proofs

open Sys2Proof Sys2Proof.Machine

/-- Settles O49, by the order the extractor keeps from byte to byte. -/
theorem segmentsAreOrderedRanges : Obligations.SegmentsAreOrderedRanges := by
  intro q carry count rxb
  have h := extract_segmentsOrdered q carry count rxb
  refine ⟨h.ranges, h.gaps, fun first hs => ⟨h.openBefore first hs, fun g hg => ?_⟩⟩
  have he : (extract q carry count rxb).expect = false := by
    cases he : (extract q carry count rxb).expect with
    | false => rfl
    | true => exact absurd (hs.symm.trans (h.noneOpen he)) (Option.some_ne_none _)
  have hgap := h.gapAfter he g hg
  rwa [hs, Option.getD_some] at hgap

/-- Settles O43: the first six steps complete one after another and leave what the extractor found; the seventh
answers it. -/
theorem tlmExtractStoresAndAnswers : Obligations.TlmExtractStoresAndAnswers := by
  intro rxb s hp
  refine ⟨_, rfl, fun h1 hmax => ⟨fun k hk1 hk6 => ?steps, ?answer⟩, fun hbad => ?illegal⟩
  case steps =>
    obtain ⟨t, hc, hrun⟩ := runExec_tlmExtract_to_place hp h1 hmax hk1 hk6
    have hall : ∀ m ∈ ((tlmExtractSteps rxb).take k).map Prod.snd, m.extracts = true :=
      List.forall_mem_map.2 fun e he => tlmExtractSteps_extracts rxb e (List.mem_of_mem_take he)
    obtain ⟨hr, htr⟩ := completes_extracts hall hc
    exact ⟨_, hrun, rfl, hr, htr⟩
  case answer => exact runExec_tlmExtract hp h1 hmax rfl
  case illegal =>
    have hlegal : (decide (1 ≤ rxb.length) && decide (rxb.length ≤ rxbufMax)) = false := by
      simp only [Bool.and_eq_false_iff, decide_eq_false_iff_not]
      omega
    rw [exec_idle (i := .tlmExtract rxb) rfl hp, hlegal]
    rfl

end Sys2Proof.Proofs

/-!
PROOFS. The invariants of Safety.lean by parts: bounds that do not look at `phase` (`Bounds`), what holds between the
calls of `TLM_EXTRACT` (`Settled`) and inside one (`InsideCall`); and which of them every step of a list keeps.
-/

namespace Sys2Proof.Machine

/-! ### The invariants by parts -/

/-- The frame buffers hold at most 12 bytes (R39); a line whose level is known shows its latch (R36). -/
structure Buffers (s : State) : Prop where
  txBuffer : s.txf.length ≤ frameMax
  rxBuffer : s.rxf.length ≤ frameMax
  lineA : s.lineA = none ∨ s.lineA = some s.mA
  lineB : s.lineB = none ∨ s.lineB = some s.mB

/-- The stores of `TLM_EXTRACT` keep their capacity, and every range its order (R45, R46, R311). -/
structure Stores (s : State) : Prop where
  samples : s.smp.length ≤ maxSeg
  segments : s.seg.length ≤ maxSeg
  segOrder : ∀ g ∈ s.seg, g.first ≤ g.last
  tailOrder : ∀ g, s.tail = some g → g.first ≤ g.last

/-- The invariants that do not look at `phase`. -/
structure Bounds (s : State) : Prop extends Buffers s, Stores s where
  responses : ∀ packet ∈ s.responses, responseOk packet = true

theorem Inv.bounds {s : State} (h : Inv s) : Bounds s :=
  ⟨⟨h.txBuffer, h.rxBuffer, h.lineA, h.lineB⟩, ⟨h.samples, h.segments, h.segOrder, h.tailOrder⟩, h.responses⟩

/-- No call of `TLM_EXTRACT` is in progress, or its step 1 is still to run. -/
def OutsideCall (s : State) : Prop := ¬ ∃ rxb n, s.phase = .run (.tlmExtract rxb) ⟨n, [], none⟩ ∧ 2 ≤ n

/-- Outside a call the carry is what `diag[0]` shows and nothing is kept of a buffer (R48, R310). -/
structure Settled (s : State) : Prop where
  deferred : diagDeferred s.diag = s.tlmCarry
  dropped : s.scan = scanEmpty

theorem Inv.settled {s : State} (h : Inv s) (ho : OutsideCall s) : Settled s :=
  ⟨h.deferred fun ⟨rxb, n, hp, h2, _⟩ => ho ⟨rxb, n, hp, h2⟩, h.scanDropped ho⟩

theorem Inv.of_outside {s : State} (hphase : phaseOk s = true) (hb : Bounds s) (hs : Settled s)
    (ho : ∀ rxb n, s.phase ≠ .run (.tlmExtract rxb) ⟨n, [], none⟩) : Inv s where
  phase := hphase
  txBuffer := hb.txBuffer
  rxBuffer := hb.rxBuffer
  samples := hb.samples
  segments := hb.segments
  segOrder := hb.segOrder
  tailOrder := hb.tailOrder
  deferred _ := hs.deferred
  deferredInside rxb n hp := absurd hp (ho rxb n)
  openSegment rxb n hp := absurd hp (ho rxb n)
  scanDropped _ := hs.dropped
  lineA := hb.lineA
  lineB := hb.lineB
  responses := hb.responses

/-- What holds when step `n` of a call is about to run: `diag[0]` waits for step 5, step 6 copies it to the carry;
the segment that is open begins inside the buffer. -/
structure InsideCall (rxb : List Byte) (n : Nat) (s : State) : Prop where
  unmarked : n ≤ 5 → diagDeferred s.diag = false
  marked : n = 6 → diagDeferred s.diag = s.scan.expect
  carried : n = 7 → diagDeferred s.diag = s.tlmCarry
  noneOpen : n = 3 → s.scan.start = none
  openInside : 4 ≤ n → ∀ first, s.scan.start = some first → first < rxb.length

theorem Inv.insideCall {s : State} {rxb : List Byte} {n : Nat} (h : Inv s)
    (hp : s.phase = .run (.tlmExtract rxb) ⟨n, [], none⟩) (h2 : 2 ≤ n) : InsideCall rxb n s where
  unmarked h5 := (h.deferredInside rxb n hp).1 ⟨h2, h5⟩
  marked h6 := (h.deferredInside rxb n hp).2 h6
  carried h7 := h.deferred fun ⟨rxb', n', hp', _, h6⟩ => by
    rw [hp] at hp'
    cases hp'
    omega
  noneOpen h3 := (h.openSegment rxb n hp).1 h3
  openInside h4 := (h.openSegment rxb n hp).2 h4

theorem Inv.of_insideCall {s : State} {rxb : List Byte} {n : Nat} (hb : Bounds s) (hi : InsideCall rxb n s)
    (hp : s.phase = .run (.tlmExtract rxb) ⟨n, [], none⟩) (h2 : 2 ≤ n) (h7 : n ≤ 7) : Inv s where
  phase := by
    simp only [phaseOk, hp, Bool.or_eq_true, List.any_eq_true, decide_eq_true_eq]
    refine .inr ?_
    interval_cases n <;> simp [stepListOf, tlmExtractSteps, topLoc]
  txBuffer := hb.txBuffer
  rxBuffer := hb.rxBuffer
  samples := hb.samples
  segments := hb.segments
  segOrder := hb.segOrder
  tailOrder := hb.tailOrder
  deferred hd := hi.carried <| by
    by_contra hne
    exact hd ⟨rxb, n, hp, h2, by omega⟩
  deferredInside rxb' n' hp' := by
    rw [hp] at hp'
    cases hp'
    exact ⟨fun h => hi.unmarked h.2, hi.marked⟩
  openSegment rxb' n' hp' := by
    rw [hp] at hp'
    cases hp'
    exact ⟨hi.noneOpen, hi.openInside⟩
  scanDropped ho := absurd ⟨rxb, n, hp, h2⟩ ho
  lineA := hb.lineA
  lineB := hb.lineB
  responses := hb.responses

/-! ### What a step of a list keeps -/

/-- The step raises the reserved class (R345). -/
def StepResult.raisesReserved : StepResult → Bool
  | .raise .resourceFault _ => true
  | _ => false

theorem raisesReserved_raise {f : FaultClass} (h : f ≠ .resourceFault) (t : State) :
    (StepResult.raise f t).raisesReserved = false := by
  cases f with
  | resourceFault => exact absurd rfl h
  | _ => rfl

/-- The buffers and lines are in bounds after the step, and it raises no reserved class (R345). -/
structure StepResult.Within (x : StepResult) : Prop where
  buffers : Buffers x.state
  fault : x.raisesReserved = false

theorem StepResult.Within.go {t : State} (h : Buffers t) : (StepResult.go t).Within := ⟨h, rfl⟩

theorem StepResult.Within.raise {f : FaultClass} {t : State} (h : Buffers t) (hf : f ≠ .resourceFault) :
    (StepResult.raise f t).Within := ⟨h, raisesReserved_raise hf t⟩

theorem Buffers.setLine {s : State} (h : Buffers s) (l : Line) (v : Bool) : Buffers (setLine l v s) := by
  cases l
  · exact ⟨h.txBuffer, h.rxBuffer, .inr rfl, h.lineB⟩
  · exact ⟨h.txBuffer, h.rxBuffer, h.lineA, .inr rfl⟩

theorem Buffers.loseLine {s : State} (h : Buffers s) (l : Line) : Buffers (loseLine l s) := by
  cases l
  · exact ⟨h.txBuffer, h.rxBuffer, .inl rfl, h.lineB⟩
  · exact ⟨h.txBuffer, h.rxBuffer, h.lineA, .inl rfl⟩

theorem recvStep_within {s : State} (h : Buffers s) (k : Nat) : (recvStep k s).Within := by
  have same : Buffers (afterRead k s) := ⟨h.txBuffer, h.rxBuffer, h.lineA, h.lineB⟩
  have received : ∀ l : List Byte, Buffers { afterRead k s with rxf := l.take frameMax } := fun l =>
    ⟨h.txBuffer, List.length_take_le _ l, h.lineA, h.lineB⟩
  rcases recvStep_cases k s with ⟨-, hx⟩ | ⟨l, -, -, hx⟩ | ⟨l, -, -, hx⟩ <;> rw [hx]
  · exact .raise same (by decide)
  · exact .go (received l)
  · exact .raise (received l) (by decide)

theorem runMicro_within {m : Micro} {s : State} (h : Buffers s) (hm : ∀ b, m ≠ .require b .resourceFault) :
    (runMicro m s).Within := by
  have ack : ∀ p, Buffers (afterAck p s) := fun p => ⟨h.txBuffer, h.rxBuffer, h.lineA, h.lineB⟩
  cases m with
  | require holds f =>
    cases holds
    · exact .raise h fun hf => hm false (hf ▸ rfl)
    · exact .go h
  | transCheck t =>
    rcases transCheckStep_cases t s with ⟨hx, -⟩ | ⟨b, p, hx⟩ <;> rw [runMicro, hx]
    · exact .raise h (by decide)
    · exact .go ⟨h.txBuffer, h.rxBuffer, h.lineA, h.lineB⟩
  | poll =>
    rcases pollStep_cases s with ⟨-, hx⟩ | ⟨-, hx⟩ | ⟨-, hx⟩ <;> rw [runMicro, hx]
    · exact .raise ⟨h.txBuffer, h.rxBuffer, h.lineA, h.lineB⟩ (by decide)
    · exact .go ⟨h.txBuffer, h.rxBuffer, h.lineA, h.lineB⟩
    · exact ⟨⟨h.txBuffer, h.rxBuffer, h.lineA, h.lineB⟩, rfl⟩
  | drive l v =>
    rcases driveStep_cases l v s with ⟨-, hx⟩ | ⟨-, hx⟩ <;> rw [runMicro, hx]
    · exact .go ((ack _).setLine l v)
    · exact .raise ((ack _).loseLine l) (by decide)
  | uartConfigure =>
    rcases uartConfigureStep_cases s with ⟨-, hx⟩ | ⟨-, hx⟩ <;> rw [runMicro, hx]
    · exact .go ⟨h.txBuffer, h.rxBuffer, h.lineA, h.lineB⟩
    · exact .raise ⟨h.txBuffer, h.rxBuffer, h.lineA, h.lineB⟩ (by decide)
  | uartReadRule a b =>
    rcases uartReadRuleStep_cases a b s with ⟨-, hx⟩ | ⟨-, hx⟩ <;> rw [runMicro, hx]
    · exact .go ⟨h.txBuffer, h.rxBuffer, h.lineA, h.lineB⟩
    · exact .raise ⟨h.txBuffer, h.rxBuffer, h.lineA, h.lineB⟩ (by decide)
  | load frame => exact .go ⟨List.length_take_le _ frame, h.rxBuffer, h.lineA, h.lineB⟩
  | loadImage => exact .go ⟨(frameW_length _ _).le, h.rxBuffer, h.lineA, h.lineB⟩
  | send =>
    rcases sendStep_cases s with ⟨-, hx⟩ | ⟨-, hx⟩ <;> rw [runMicro, hx]
    · exact .go ⟨h.txBuffer, h.rxBuffer, h.lineA, h.lineB⟩
    · exact .raise ⟨h.txBuffer, h.rxBuffer, h.lineA, h.lineB⟩ (by decide)
  | flush =>
    rcases flushStep_cases s with ⟨-, hx⟩ | ⟨-, hx⟩ <;> rw [runMicro, hx]
    · exact .go (ack _)
    · exact .raise (ack _) (by decide)
  | recv k => exact recvStep_within h k
  | recvEcho => exact recvStep_within h _
  | checkEcho =>
    rcases checkEchoStep_cases s with ⟨-, hx⟩ | ⟨-, hx⟩ <;> rw [runMicro, hx]
    · exact .go h
    · exact .raise h (by decide)
  | commit fromStaged => cases fromStaged <;> exact .go ⟨h.txBuffer, h.rxBuffer, h.lineA, h.lineB⟩
  | clearExtract legal =>
    cases legal
    · exact .raise h (by decide)
    · exact .go ⟨h.txBuffer, h.rxBuffer, h.lineA, h.lineB⟩
  | _ => exact ⟨⟨h.txBuffer, h.rxBuffer, h.lineA, h.lineB⟩, rfl⟩

/-! ### What the sequencer keeps -/

theorem faultCode_responseOk {f : FaultClass} {t : State} (h : (StepResult.raise f t).raisesReserved = false) :
    responseOk [faultCode f] = true := by
  cases f with
  | resourceFault => cases h
  | _ => rfl

theorem settleStep_responseOk {op : Instr} {loc : Loc} {rest : StepList} {x : StepResult} (hx : x.Within)
    (h : ∀ packet ∈ x.state.responses, responseOk packet = true) :
    ∀ packet ∈ (settleStep op loc rest x).responses, responseOk packet = true := by
  cases x with
  | go t => exact h
  | stay t => exact h
  | raise f t =>
    exact List.forall_mem_cons.2 ⟨faultCode_responseOk hx.fault, h⟩
  | done result t => exact List.forall_mem_cons.2 ⟨responseOk_done result, h⟩

theorem settleStep_phase (op : Instr) (loc : Loc) (rest : StepList) (x : StepResult) :
    (settleStep op loc rest x).phase = phaseAt op rest ∨ (settleStep op loc rest x).phase = .run op loc ∨
      (settleStep op loc rest x).phase = .idle := by
  cases x <;> simp [settleStep]

/-- After a step of a list the operation is over or stands at a place of its list. -/
theorem RunsMicro.phase_cases {i : Instr} {s t : State} {loc : Loc} {m : Micro} {rest : StepList}
    (h : RunsMicro i s t loc m rest) :
    t.phase = .idle ∨ ∃ e ∈ stepListOf i, t.phase = .run i e.1 := by
  have hp := settleStep_phase i loc rest (runMicro m s)
  rw [← h.settled] at hp
  rcases hp with hp | hp | hp
  · cases rest with
    | nil => exact .inl hp
    | cons e rest => exact .inr ⟨e, h.suffix.subset (by simp), hp⟩
  · exact .inr ⟨_, h.mem, hp⟩
  · exact .inl hp

theorem RunsMicro.phaseOk {i : Instr} {s t : State} {loc : Loc} {m : Micro} {rest : StepList}
    (h : RunsMicro i s t loc m rest) : phaseOk t = true := by
  rcases h.phase_cases with hp | ⟨e, he, hp⟩ <;> simp only [Machine.phaseOk, hp]
  simp only [Bool.or_eq_true, List.any_eq_true, decide_eq_true_eq]
  exact .inr ⟨e, he, rfl⟩

theorem RunsMicro.bounds {i : Instr} {s t : State} {loc : Loc} {m : Micro} {rest : StepList}
    (h : RunsMicro i s t loc m rest) (hb : Bounds s) (hstores : Stores (runMicro m s).state) : Bounds t := by
  have hm : ∀ b, m ≠ .require b .resourceFault := by
    rintro b rfl
    exact stepListOf_placed i _ h.mem rfl
  have hx := runMicro_within hb.toBuffers hm
  have hresp : (runMicro m s).state.responses = s.responses := by
    obtain ⟨⟨-, -, -, -, hr, -⟩, -⟩ := runMicro_frame m s
    exact hr
  have hok := settleStep_responseOk (op := i) (loc := loc) (rest := rest) hx (by rw [hresp]; exact hb.responses)
  obtain ⟨ph, rs, ht⟩ := settleStep_eq_state i loc rest (runMicro m s)
  rw [← h.settled] at ht hok
  refine ⟨?_, ?_, hok⟩
  · rw [ht]
    exact ⟨hx.buffers.txBuffer, hx.buffers.rxBuffer, hx.buffers.lineA, hx.buffers.lineB⟩
  · rw [ht]
    exact ⟨hstores.samples, hstores.segments, hstores.segOrder, hstores.tailOrder⟩

end Sys2Proof.Machine

/-!
PROOFS. Every step keeps the invariants: a step that is not one of `TLM_EXTRACT` leaves the telemetry state alone,
and each of the seven steps of `TLM_EXTRACT` hands on what the next one needs (spec/44_telemetry.md R304).
-/

namespace Sys2Proof.Machine

/-! ### Operations other than `TLM_EXTRACT` -/

theorem diagDeferred_zero : diagDeferred 0 = false := by decide

theorem AtOnce.bounds {i : Instr} {s u : State} (h : AtOnce i s u) (hb : Bounds s) : Bounds u := by
  cases h with
  | tlmReset =>
    exact ⟨⟨hb.txBuffer, hb.rxBuffer, hb.lineA, hb.lineB⟩, ⟨Nat.zero_le _, Nat.zero_le _, by simp, by simp⟩,
      hb.responses⟩
  | reply h0 h1 h2 data s frame e =>
    exact ⟨⟨hb.txBuffer, List.length_take_le _ frame, hb.lineA, hb.lineB⟩,
      ⟨hb.samples, hb.segments, hb.segOrder, hb.tailOrder⟩, hb.responses⟩
  | _ =>
    exact ⟨⟨hb.txBuffer, hb.rxBuffer, hb.lineA, hb.lineB⟩,
      ⟨hb.samples, hb.segments, hb.segOrder, hb.tailOrder⟩, hb.responses⟩

theorem AtOnce.settled {i : Instr} {s u : State} (h : AtOnce i s u) (hs : Settled s) : Settled u := by
  cases h with
  | tlmReset => exact ⟨diagDeferred_zero, hs.dropped⟩
  | _ => exact ⟨hs.deferred, hs.dropped⟩

theorem Bounds.respond {s : State} (hb : Bounds s) {packet : List Byte} (h : responseOk packet = true) :
    Bounds (respond packet s) :=
  ⟨⟨hb.txBuffer, hb.rxBuffer, hb.lineA, hb.lineB⟩, ⟨hb.samples, hb.segments, hb.segOrder, hb.tailOrder⟩,
    List.forall_mem_cons.2 ⟨h, hb.responses⟩⟩

/-- The end of an operation outside a call of `TLM_EXTRACT`. -/
theorem inv_respond {s : State} (hb : Bounds s) (hs : Settled s) {packet : List Byte}
    (h : responseOk packet = true) : Inv (respond packet s) :=
  .of_outside rfl (hb.respond h) ⟨hs.deferred, hs.dropped⟩ nofun

/-- A step of another operation than `TLM_EXTRACT`. -/
theorem RunsMicro.inv_of_ne {i : Instr} {s t : State} {loc : Loc} {m : Micro} {rest : StepList}
    (h : RunsMicro i s t loc m rest) (hi : ∀ rxb, i ≠ .tlmExtract rxb) (hb : Bounds s) (hs : Settled s) :
    Inv t := by
  have hm : m.extracts = false := by
    cases hm : m.extracts with
    | false => rfl
    | true =>
      obtain ⟨rxb, hr⟩ := placed_of_extracts hm (stepListOf_placed i _ h.mem)
      exact absurd hr (hi rxb)
  obtain ⟨-, hframe⟩ := runMicro_frame m s
  obtain ⟨hcarry, -, hsmp, hseg, htail, hdiag, hscan⟩ := hframe hm
  have hstores : Stores (runMicro m s).state :=
    ⟨hsmp ▸ hb.samples, hseg ▸ hb.segments, hseg ▸ hb.segOrder, htail ▸ hb.tailOrder⟩
  have hsettled : Settled t := by
    obtain ⟨ph, rs, ht⟩ := settleStep_eq_state i loc rest (runMicro m s)
    rw [h.settled, ht]
    exact ⟨hdiag ▸ hcarry ▸ hs.deferred, hscan.trans hs.dropped⟩
  refine .of_outside h.phaseOk (h.bounds hb hstores) hsettled fun rxb n hp => ?_
  rcases h.phase_cases with hidle | ⟨e, -, hrun⟩
  · rw [hidle] at hp; cases hp
  · rw [hrun] at hp
    injection hp with hop
    exact hi rxb hop

/-! ### The loop of `TLM_EXTRACT` keeps the stores in bounds -/

/-- After `n` bytes the stores keep their capacity, segments their order, and the open one begins in the buffer. -/
structure CursorOk (q : ExtractParams) (n : Nat) (c : Cursor) : Prop where
  samples : c.smp.length ≤ q.maxSeg
  segments : c.seg.length ≤ q.maxSeg
  segOrder : ∀ g ∈ c.seg, g.first ≤ g.last
  openInside : ∀ first, c.start = some first → first < n

theorem CursorOk.extractByte {q : ExtractParams} {n : Nat} {c : Cursor} (h : CursorOk q n c)
    (upTo : List Byte) (b : Byte) : CursorOk q (n + 1) (extractByte q n upTo b c) := by
  have hopen : ∀ first, c.start = some first → first < n + 1 := fun first hs =>
    (h.openInside first hs).trans (Nat.lt_succ_self n)
  have hfirst := getD_le_of_lt h.openInside
  rcases extractByte_cases q n upTo b c with
    ⟨-, hroom, hx⟩ | ⟨-, o, hx⟩ | ⟨-, hx⟩ | ⟨-, hroom, hx⟩ | ⟨-, hx⟩ <;> rw [hx]
  · exact ⟨by simpa using hroom, h.segments, h.segOrder, hopen⟩
  · exact ⟨h.samples, h.segments, h.segOrder, hopen⟩
  · refine ⟨h.samples, h.segments, h.segOrder, ?_⟩
    rintro _ ⟨⟩
    exact Nat.lt_succ_of_le hfirst
  · refine ⟨h.samples, by simpa using hroom, ?_, by simp⟩
    simp only [List.forall_mem_append, List.forall_mem_singleton]
    exact ⟨h.segOrder, hfirst⟩
  · exact ⟨h.samples, h.segments, h.segOrder, by simp⟩

theorem CursorOk.extractLoop {q : ExtractParams} {before : List Byte} {c : Cursor} (rxb : List Byte)
    (h : CursorOk q before.length c) :
    CursorOk q (before ++ rxb).length (extractLoop q before c rxb) := by
  induction rxb generalizing before c with
  | nil => simpa [Machine.extractLoop] using h
  | cons b rxb ih =>
    have hnext := ih (before := before ++ [b]) (by simpa using h.extractByte (before ++ [b]) b)
    rwa [List.append_assoc, List.singleton_append] at hnext

/-- The cursor with which step 3 of a call ends. -/
theorem scanBuffer_cursorOk {s : State} (hst : Stores s) (hnone : s.scan.start = none) (rxb : List Byte) :
    CursorOk (blockParams s.scan.carryIn) rxb.length
      (extractLoop (blockParams s.scan.carryIn) [] (scanCursor s) rxb) :=
  CursorOk.extractLoop (before := []) rxb
    ⟨hst.samples, hst.segments, hst.segOrder, fun first hs => by
      rw [show (scanCursor s).start = none from hnone] at hs
      cases hs⟩

/-! ### The steps of `TLM_EXTRACT` -/

theorem diagDeferred_diagOf (deferred overflow : Bool) : diagDeferred (diagOf deferred overflow) = deferred := by
  revert deferred overflow; decide

theorem clearExtract_stores (s : State) : Stores (clearExtract s) :=
  ⟨Nat.zero_le _, Nat.zero_le _, by simp, by simp⟩

theorem beginScan_stores {s : State} (hst : Stores s) : Stores (beginScan s) :=
  ⟨hst.samples, hst.segments, hst.segOrder, hst.tailOrder⟩

theorem scanBuffer_stores {s : State} {rxb : List Byte} (hst : Stores s) (hi : InsideCall rxb 3 s) :
    Stores (scanBuffer rxb s) :=
  have hc := scanBuffer_cursorOk hst (hi.noneOpen rfl) rxb
  ⟨hc.samples, hc.segments, hc.segOrder, hst.tailOrder⟩

theorem storeTail_stores {s : State} {rxb : List Byte} (hst : Stores s) (hi : InsideCall rxb 4 s) :
    Stores (storeTail rxb.length s) := by
  rcases storeTail_cases rxb.length s with ⟨-, hx⟩ | ⟨first, hs, hx⟩ <;> rw [hx]
  · exact hst
  · refine ⟨hst.samples, hst.segments, hst.segOrder, ?_⟩
    rintro _ ⟨⟩
    exact Nat.le_sub_one_of_lt (hi.openInside le_rfl first hs)

theorem markDeferred_stores {s : State} (hst : Stores s) : Stores (markDeferred s) :=
  ⟨hst.samples, hst.segments, hst.segOrder, hst.tailOrder⟩

theorem keepCarry_stores {s : State} (hst : Stores s) : Stores (keepCarry s) :=
  ⟨hst.samples, hst.segments, hst.segOrder, hst.tailOrder⟩

theorem clearExtract_insideCall (rxb : List Byte) (s : State) : InsideCall rxb 2 (clearExtract s) where
  unmarked _ := diagDeferred_zero
  marked := nofun
  carried := nofun
  noneOpen := nofun
  openInside h := absurd h (by decide)

theorem InsideCall.beginScan {rxb : List Byte} {s : State} (h : InsideCall rxb 2 s) :
    InsideCall rxb 3 (beginScan s) where
  unmarked _ := h.unmarked (by decide)
  marked := nofun
  carried := nofun
  noneOpen _ := rfl
  openInside h := absurd h (by decide)

theorem InsideCall.scanBuffer {rxb : List Byte} {s : State} (h : InsideCall rxb 3 s) (hst : Stores s) :
    InsideCall rxb 4 (scanBuffer rxb s) where
  unmarked _ := (diagDeferred_diagOf _ _).trans (h.unmarked (by decide))
  marked := nofun
  carried := nofun
  noneOpen := nofun
  openInside _ := (scanBuffer_cursorOk hst (h.noneOpen rfl) rxb).openInside

theorem InsideCall.storeTail {rxb : List Byte} {s : State} (h : InsideCall rxb 4 s) (n : Nat) :
    InsideCall rxb 5 (storeTail n s) where
  unmarked _ := h.unmarked (by decide)
  marked := nofun
  carried := nofun
  noneOpen := nofun
  openInside _ := h.openInside le_rfl

theorem InsideCall.markDeferred {rxb : List Byte} {s : State} (h : InsideCall rxb 5 s) :
    InsideCall rxb 6 (markDeferred s) where
  unmarked h6 := absurd h6 (by decide)
  marked _ := by
    rcases markDeferred_cases s with ⟨he, hx⟩ | ⟨he, hx⟩ <;> rw [hx, he]
    · exact h.unmarked le_rfl
    · exact diagDeferred_diagOf _ _
  carried := nofun
  noneOpen := nofun
  openInside _ := h.openInside (by decide)

theorem InsideCall.keepCarry {rxb : List Byte} {s : State} (h : InsideCall rxb 6 s) :
    InsideCall rxb 7 (keepCarry s) where
  unmarked h7 := absurd h7 (by decide)
  marked := nofun
  carried _ := h.marked rfl
  noneOpen := nofun
  openInside _ := h.openInside (by decide)

/-- The invariant inside a call, whatever `phase` was before the sequencer moved it. -/
theorem InsideCall.moved {rxb : List Byte} {n : Nat} {s : State} (h : InsideCall rxb n s) (ph : Phase) :
    InsideCall rxb n { s with phase := ph } :=
  ⟨h.unmarked, h.marked, h.carried, h.noneOpen, h.openInside⟩

/-- A step of `TLM_EXTRACT` is one of the seven. -/
theorem RunsMicro.tlmExtract_step {rxb : List Byte} {s t : State} {loc : Loc} {m : Micro} {rest : StepList}
    (h : RunsMicro (.tlmExtract rxb) s t loc m rest) :
    ∃ k < 7, (tlmExtractSteps rxb).drop k = (loc, m) :: rest := by
  have hdrop := List.suffix_iff_eq_drop.1 h.suffix
  have hlen : (stepListOf (.tlmExtract rxb)).length = 7 := rfl
  rw [hlen, List.length_cons] at hdrop
  exact ⟨7 - (rest.length + 1), by omega, hdrop.symm⟩

/-- A later step than the first runs where `phase` stands. -/
theorem RunsMicro.phase_of_tlmExtract {rxb : List Byte} {s t : State} {n : Nat} {m : Micro} {rest : StepList}
    (h : RunsMicro (.tlmExtract rxb) s t ⟨n, [], none⟩ m rest) (h2 : 2 ≤ n)
    (hop : s.phase = .idle ∨ ∃ loc, s.phase = .run (.tlmExtract rxb) loc) :
    s.phase = .run (.tlmExtract rxb) ⟨n, [], none⟩ := by
  rcases h.place with ⟨-, hfirst⟩ | ⟨op, hp⟩
  · cases hfirst
    omega
  · rcases hop with hidle | ⟨loc, hrun⟩
    · rw [hp] at hidle; cases hidle
    · rw [hp] at hrun ⊢
      injection hrun with hop
      rw [hop]

/-- A step of a call that completes leaves the invariants when the next step finds what it needs. -/
theorem RunsMicro.inv_go {rxb : List Byte} {s t u : State} {loc : Loc} {m m' : Micro} {n : Nat}
    {rest : StepList} (h : RunsMicro (.tlmExtract rxb) s t loc m ((⟨n, [], none⟩, m') :: rest))
    (hm : runMicro m s = .go u) (hb : Bounds s) (hst : Stores u) (hu : InsideCall rxb n u) (h2 : 2 ≤ n)
    (h7 : n ≤ 7) : Inv t := by
  have ht : t = { u with phase := .run (.tlmExtract rxb) ⟨n, [], none⟩ } := by rw [h.settled, hm]; rfl
  have hbt : Bounds t := h.bounds hb (by rw [hm]; exact hst)
  subst ht
  exact .of_insideCall hbt (hu.moved _) rfl h2 h7

/-- Step 1 of a call: the stores are cleared, or an illegal length is refused and nothing changes (R304, R124). -/
theorem RunsMicro.inv_clearExtract {rxb : List Byte} {s t : State} {loc : Loc} {legal : Bool} {m' : Micro}
    {rest : StepList}
    (h : RunsMicro (.tlmExtract rxb) s t loc (.clearExtract legal) ((⟨2, [], none⟩, m') :: rest))
    (hb : Bounds s) (hs : Settled s) : Inv t := by
  cases legal with
  | true =>
    exact h.inv_go rfl hb (clearExtract_stores s) (clearExtract_insideCall rxb s) (by decide) (by decide)
  | false =>
    rw [h.settled]
    exact inv_respond hb hs rfl

/-- Step 7 of a call: it answers, and nothing is kept of the buffer (R48). -/
theorem RunsMicro.inv_doneExtract {rxb : List Byte} {s t : State} {loc : Loc} {rest : StepList}
    (h : RunsMicro (.tlmExtract rxb) s t loc .doneExtract rest) (hb : Bounds s) (hi : InsideCall rxb 7 s) :
    Inv t := by
  have hdropped : Bounds (dropScan s) :=
    ⟨⟨hb.txBuffer, hb.rxBuffer, hb.lineA, hb.lineB⟩, ⟨hb.samples, hb.segments, hb.segOrder, hb.tailOrder⟩,
      hb.responses⟩
  rw [h.settled]
  exact inv_respond hdropped ⟨hi.carried rfl, rfl⟩ (responseOk_done _)

theorem RunsMicro.insideCall {rxb : List Byte} {s t : State} {n : Nat} {m : Micro} {rest : StepList}
    (h : RunsMicro (.tlmExtract rxb) s t ⟨n, [], none⟩ m rest) (hinv : Inv s)
    (hop : s.phase = .idle ∨ ∃ loc, s.phase = .run (.tlmExtract rxb) loc) (h2 : 2 ≤ n) : InsideCall rxb n s :=
  hinv.insideCall (h.phase_of_tlmExtract h2 hop) h2

/-- The first step of a call runs outside it. -/
theorem RunsMicro.outsideCall {rxb : List Byte} {s t : State} {m : Micro} {rest : StepList}
    (h : RunsMicro (.tlmExtract rxb) s t ⟨1, [], none⟩ m rest) : OutsideCall s := by
  rintro ⟨rxb', n, hp, h2⟩
  rcases h.place with ⟨hidle, -⟩ | ⟨op, hp'⟩
  · rw [hidle] at hp; cases hp
  · rw [hp'] at hp
    cases hp
    omega

theorem RunsMicro.inv_tlmExtract {rxb : List Byte} {s t : State} {loc : Loc} {m : Micro} {rest : StepList}
    (h : RunsMicro (.tlmExtract rxb) s t loc m rest) (hinv : Inv s)
    (hop : s.phase = .idle ∨ ∃ loc, s.phase = .run (.tlmExtract rxb) loc) : Inv t := by
  have hb := hinv.bounds
  have hst := hb.toStores
  obtain ⟨k, hk, hdrop⟩ := h.tlmExtract_step
  interval_cases k <;> cases hdrop
  · exact h.inv_clearExtract hb (hinv.settled h.outsideCall)
  · have hi := h.insideCall hinv hop (by decide)
    exact h.inv_go rfl hb (beginScan_stores hst) hi.beginScan (by decide) (by decide)
  · have hi := h.insideCall hinv hop (by decide)
    exact h.inv_go rfl hb (scanBuffer_stores hst hi) (hi.scanBuffer hst) (by decide) (by decide)
  · have hi := h.insideCall hinv hop (by decide)
    exact h.inv_go rfl hb (storeTail_stores hst hi) (hi.storeTail _) (by decide) (by decide)
  · have hi := h.insideCall hinv hop (by decide)
    exact h.inv_go rfl hb (markDeferred_stores hst) hi.markDeferred (by decide) (by decide)
  · have hi := h.insideCall hinv hop (by decide)
    exact h.inv_go rfl hb (keepCarry_stores hst) hi.keepCarry (by decide) (by decide)
  · exact h.inv_doneExtract hb (h.insideCall hinv hop (by decide))

/-! ### One step of the machine -/

/-- The operation that `phase` names, or in idle any operation, keeps the invariants. -/
theorem exec_keeps_inv {i : Instr} {s t : State} (hinv : Inv s)
    (hop : s.phase = .idle ∨ ∃ loc, s.phase = .run i loc) (h : exec i s = .next t) : Inv t := by
  have hother : (∀ rxb, i ≠ .tlmExtract rxb) → Settled s := fun hi => hinv.settled fun ⟨rxb, n, hp, _⟩ => by
    rcases hop with hidle | ⟨loc, hrun⟩
    · rw [hidle] at hp; cases hp
    · rw [hrun] at hp
      injection hp with hi'
      exact hi rxb hi'
  rcases exec_cases h with ⟨hl, packet, u, rfl, hok, hat⟩ | ⟨loc, m, rest, hm⟩
  · have hi : ∀ rxb, i ≠ .tlmExtract rxb := by rintro rxb rfl; cases hl
    exact inv_respond (hat.bounds hinv.bounds) (hat.settled (hother hi)) hok
  · by_cases hi : ∃ rxb, i = .tlmExtract rxb
    · obtain ⟨rxb, rfl⟩ := hi
      exact hm.inv_tlmExtract hinv hop
    · have hne : ∀ rxb, i ≠ .tlmExtract rxb := fun rxb he => hi ⟨rxb, he⟩
      exact hm.inv_of_ne hne hinv.bounds (hother hne)

/-- The invariants do not look at the host's packets or the reset input. -/
theorem Inv.withPorts {s : State} (h : Inv s) (cmds : List (List Byte)) (pins : List Bool) :
    Inv (s.withPorts cmds pins) :=
  ⟨h.phase, h.txBuffer, h.rxBuffer, h.samples, h.segments, h.segOrder, h.tailOrder, h.deferred,
    h.deferredInside, h.openSegment, h.scanDropped, h.lineA, h.lineB, h.responses⟩

theorem settled_idle {s : State} (h : Inv s) (hp : s.phase = .idle) : Settled s :=
  h.settled fun ⟨_, _, hp', _⟩ => by rw [hp] at hp'; cases hp'

/-- A state whose block is as after reset, whatever the ports hold. -/
theorem inv_resetBlock {s : State} (h : ∀ packet ∈ s.responses, responseOk packet = true) :
    Inv (resetBlock s) :=
  .of_outside rfl
    ⟨⟨Nat.zero_le _, Nat.zero_le _, .inr rfl, .inr rfl⟩,
      ⟨Nat.zero_le _, Nat.zero_le _, by simp [State.reset], by simp [State.reset]⟩, h⟩
    ⟨diagDeferred_zero, rfl⟩ nofun

end Sys2Proof.Machine

namespace Sys2Proof.Proofs

open Sys2Proof Sys2Proof.Machine

/-- Settles O57: reset, waiting, a refused packet, and every operation keep the invariants. -/
theorem stepKeepsInvariants : Obligations.StepKeepsInvariants := by
  intro s t hinv h
  cases hr : resetAsserted s with
  | true =>
    rw [step_reset hr] at h
    cases h
    exact inv_resetBlock hinv.responses
  | false =>
    obtain ⟨cmds, pins, ⟨-, rfl⟩ | ⟨hp, rfl⟩ | ⟨i, -, hop, hx⟩⟩ := step_cases hr h
    · exact hinv.withPorts cmds pins
    · have hports := hinv.withPorts cmds pins
      exact inv_respond hports.bounds (settled_idle hports hp) rfl
    · exact exec_keeps_inv (hinv.withPorts cmds pins) hop hx

/-- Settles O56: the block after reset meets the invariants, and an empty history has no pin write. -/
theorem resetMeetsTheInvariants : Obligations.ResetMeetsTheInvariants :=
  ⟨inv_resetBlock (s := State.reset) nofun, trivial, nofun, nofun⟩

end Sys2Proof.Proofs

/-!
PROOFS. The two address spaces as ranges of addresses (spec/20_memory.md R72 to R75).
-/

namespace Sys2Proof.Machine

theorem mapped_iff {addr : Nat} : mapped addr = true ↔ addr ≤ 0x08 ∨ (0x80 ≤ addr ∧ addr ≤ 0x86) := by
  simp [mapped]

theorem spanOk_iff {addr : Byte} {len : Nat} : spanOk addr len = true ↔
    1 ≤ len ∧ (addr.toNat + len ≤ 0x09 ∨ (0x80 ≤ addr.toNat ∧ addr.toNat + len ≤ 0x87)) := by
  simp only [spanOk, Bool.and_eq_true, Bool.or_eq_true, decide_eq_true_eq]
  omega

theorem rssiSpanOk_iff {addr : Byte} {len : Nat} : rssiSpanOk addr len = true ↔
    1 ≤ len ∧ addr.toNat + len ≤ 2 := by
  simp only [rssiSpanOk, Bool.and_eq_true, decide_eq_true_eq]
  omega

/-- Mapped bytes one after the other lie in one of the two ranges: between these stands the unmapped address 0x09. -/
theorem spanOk_of_all_mapped {addr : Byte} {len : Nat} (hlen : 1 ≤ len)
    (h : ∀ k, k < len → mapped (addr.toNat + k) = true) : spanOk addr len = true := by
  have hfirst := mapped_iff.1 (h 0 hlen)
  have hlast := mapped_iff.1 (h (len - 1) (by omega))
  refine spanOk_iff.2 ⟨hlen, ?_⟩
  by_cases hgap : addr.toNat ≤ 0x09 ∧ 0x09 < addr.toNat + len
  · have hnine := mapped_iff.1 (h (0x09 - addr.toNat) (by omega))
    omega
  · omega

theorem all_mapped_of_spanOk {addr : Byte} {len : Nat} (h : spanOk addr len = true) :
    ∀ k, k < len → mapped (addr.toNat + k) = true := by
  obtain ⟨-, hrange⟩ := spanOk_iff.1 h
  intro k hk
  exact mapped_iff.2 (by omega)

end Sys2Proof.Machine

/-!
PROOFS. What a step adds at the ports: an operation answers in the step that ends it and in no other (R121, R340),
and a step adds at most two port events (log 3).
-/

namespace Sys2Proof.Machine

/-! ### Port events are only added -/

/-- The history of port events in `t` is that in `s` and at most two events more. -/
def AddsEvents (s t : State) : Prop := ∃ events, t.trace = events ++ s.trace ∧ events.length ≤ 2

theorem AddsEvents.none {s t : State} (h : t.trace = s.trace) : AddsEvents s t := ⟨[], h, by simp⟩

theorem AddsEvents.one {s t : State} {e : Event} (h : t.trace = e :: s.trace) : AddsEvents s t :=
  ⟨[e], h, by simp⟩

theorem AddsEvents.two {s t : State} {d e : Event} (h : t.trace = d :: e :: s.trace) : AddsEvents s t :=
  ⟨[d, e], h, by simp⟩

theorem recvStep_addsEvents (k : Nat) (s : State) : AddsEvents s (recvStep k s).state := by
  rcases recvStep_cases k s with ⟨-, h⟩ | ⟨l, -, -, h⟩ | ⟨l, -, -, h⟩ <;> rw [h] <;> exact .one rfl

/-- A turn of the poll loop that goes on is the one step with two events: the read of BUSY and the delay. -/
theorem runMicro_addsEvents (m : Micro) (s : State) : AddsEvents s (runMicro m s).state := by
  cases m with
  | require holds f => cases holds <;> exact .none rfl
  | transCheck t =>
    rcases transCheckStep_cases t s with ⟨h, -⟩ | ⟨b, p, h⟩ <;> rw [runMicro, h] <;> exact .none rfl
  | poll =>
    rcases pollStep_cases s with ⟨-, h⟩ | ⟨-, h⟩ | ⟨-, h⟩ <;> rw [runMicro, h]
    · exact .one rfl
    · exact .one rfl
    · exact .two rfl
  | drive l v =>
    rcases driveStep_cases l v s with ⟨-, h⟩ | ⟨-, h⟩ <;> rw [runMicro, h]
    · exact .one (setLine_trace l v _)
    · exact .one (loseLine_trace l _)
  | uartConfigure =>
    rcases uartConfigureStep_cases s with ⟨-, h⟩ | ⟨-, h⟩ <;> rw [runMicro, h] <;> exact .one rfl
  | uartReadRule a b =>
    rcases uartReadRuleStep_cases a b s with ⟨-, h⟩ | ⟨-, h⟩ <;> rw [runMicro, h] <;> exact .one rfl
  | settle => exact .one rfl
  | send => rcases sendStep_cases s with ⟨-, h⟩ | ⟨-, h⟩ <;> rw [runMicro, h] <;> exact .one rfl
  | flush => rcases flushStep_cases s with ⟨-, h⟩ | ⟨-, h⟩ <;> rw [runMicro, h] <;> exact .one rfl
  | recv k => exact recvStep_addsEvents k s
  | recvEcho => exact recvStep_addsEvents s.txf.length s
  | checkEcho =>
    rcases checkEchoStep_cases s with ⟨-, h⟩ | ⟨-, h⟩ <;> rw [runMicro, h] <;> exact .none rfl
  | commit fromStaged => cases fromStaged <;> exact .none rfl
  | clearExtract legal => cases legal <;> exact .none rfl
  | storeTail n => exact .none (storeTail_trace n s)
  | markDeferred => exact .none (markDeferred_trace s)
  | _ => exact .none rfl

/-! ### An operation answers when it is over -/

/-- The steps that answer `done`. -/
def Micro.ends : Micro → Bool
  | .done _ | .doneExtract => true
  | _ => false

theorem runMicro_of_ends {m : Micro} (h : m.ends = true) (s : State) :
    ∃ result t, runMicro m s = .done result t := by
  cases m with
  | done r => exact ⟨_, _, rfl⟩
  | doneExtract => exact ⟨_, _, rfl⟩
  | _ => cases h

/-- Every step list ends with a step that answers, so no operation leaves its list without a response. -/
theorem stepListOf_last_ends {i : Instr} {loc : Loc} {m : Micro} (h : [(loc, m)] <:+ stepListOf i) :
    m.ends = true := by
  have hall : ∀ e ∈ (stepListOf i).getLast?, e.2.ends = true := by
    have hl := listed_of_stepListOf_ne_nil (i := i) fun hnil => by simp [hnil] at h
    clear h
    cases hl with
    | mode t => rw [stepListOf_modeInstr]; rintro e ⟨⟩; rfl
    | commit w => rw [stepListOf_commitInstr]; rintro e ⟨⟩; rfl
    | _ => rintro e ⟨⟩; rfl
  obtain ⟨pre, hpre⟩ := h
  rw [← hpre] at hall
  exact hall (loc, m) (by simp)

/-- A step of an operation: exactly one response if it leaves the block in idle, none otherwise; no packet is
taken, and port events are only added. -/
structure AnswersIffOver (s t : State) : Prop where
  responses : (t.phase = .idle ∧ ∃ packet, t.responses = packet :: s.responses) ∨
    (t.phase ≠ .idle ∧ t.responses = s.responses)
  hostCmds : t.hostCmds = s.hostCmds
  events : AddsEvents s t

theorem answersIffOver_respond {s u : State} (packet : List Byte) (hresp : u.responses = s.responses)
    (hcmds : u.hostCmds = s.hostCmds) (hev : AddsEvents s u) : AnswersIffOver s (respond packet u) :=
  ⟨.inl ⟨rfl, packet, congrArg _ hresp⟩, hcmds, hev⟩

theorem AtOnce.answersIffOver {i : Instr} {s u : State} (h : AtOnce i s u) (packet : List Byte) :
    AnswersIffOver s (respond packet u) := by
  cases h with
  | reply => exact answersIffOver_respond packet rfl rfl (.one rfl)
  | _ => exact answersIffOver_respond packet rfl rfl (.none rfl)

theorem RunsMicro.answersIffOver {i : Instr} {s t : State} {loc : Loc} {m : Micro} {rest : StepList}
    (h : RunsMicro i s t loc m rest) : AnswersIffOver s t := by
  obtain ⟨⟨-, -, hcmds, -, hresp, -⟩, -⟩ := runMicro_frame m s
  have hev := runMicro_addsEvents m s
  rw [h.settled]
  cases hx : runMicro m s with
  | go u =>
    rw [hx] at hcmds hresp hev
    cases hrest : rest with
    | nil =>
      obtain ⟨result, v, hdone⟩ := runMicro_of_ends (stepListOf_last_ends (hrest ▸ h.suffix)) s
      rw [hx] at hdone
      cases hdone
    | cons e rest => exact ⟨.inr ⟨nofun, hresp⟩, hcmds, hev⟩
  | stay u =>
    rw [hx] at hcmds hresp hev
    exact ⟨.inr ⟨nofun, hresp⟩, hcmds, hev⟩
  | raise f u =>
    rw [hx] at hcmds hresp hev
    exact answersIffOver_respond _ hresp hcmds hev
  | done result u =>
    rw [hx] at hcmds hresp hev
    exact answersIffOver_respond _ hresp hcmds hev

theorem exec_answersIffOver {i : Instr} {s t : State} (h : exec i s = .next t) : AnswersIffOver s t := by
  rcases exec_cases h with ⟨-, packet, u, rfl, -, hat⟩ | ⟨loc, m, rest, hm⟩
  · exact hat.answersIffOver packet
  · exact hm.answersIffOver

/-! ### A step of the machine takes a packet only in idle -/

/-- A step without reset waits in idle without a packet, or is a step of an operation: of the running one, or of
the packet that idle takes, an illegal one included (R84, R121, R124). -/
theorem step_waits_or_answers {s t : State} (hr : resetAsserted s = false) (h : step s = .next t) :
    (s.phase = .idle ∧ s.hostCmds = [] ∧ t = sampleReset s) ∨
    (s.phase ≠ .idle ∧ AnswersIffOver (sampleReset s) t) ∨
    (s.phase = .idle ∧ s.hostCmds ≠ [] ∧ AnswersIffOver (takePacket (sampleReset s)) t) := by
  cases hp : s.phase with
  | run op loc =>
    rw [step_running hr hp] at h
    exact .inr (.inl ⟨nofun, exec_answersIffOver h⟩)
  | idle =>
    rw [step_idle hr hp] at h
    cases hc : s.hostCmds with
    | nil =>
      have ho : offered s = none := by simp [offered, hc]
      rw [ho] at h
      cases h
      exact .inl ⟨rfl, rfl, rfl⟩
    | cons packet others =>
      have ho : offered s = some (decode .host packet) := by simp [offered, hc]
      rw [ho] at h
      refine .inr (.inr ⟨rfl, nofun, ?_⟩)
      cases hd : decode .host packet with
      | ok i =>
        rw [hd] at h
        exact exec_answersIffOver h
      | error e =>
        rw [hd] at h
        cases h
        exact answersIffOver_respond _ rfl rfl (.none rfl)

/-- One response and idle, or none. -/
theorem AnswersIffOver.unchanged_or_one {s t : State} (h : AnswersIffOver s t) :
    t.responses = s.responses ∨ (t.phase = .idle ∧ ∃ packet, t.responses = packet :: s.responses) :=
  h.responses.symm.imp_left And.right

theorem AnswersIffOver.one_of_idle {s t : State} (h : AnswersIffOver s t) (hp : t.phase = .idle) :
    ∃ packet, t.responses = packet :: s.responses :=
  h.responses.elim And.right fun hrun => absurd hp hrun.1

end Sys2Proof.Machine

/-!
PROOFS. The statements of spec/20_memory.md.
-/

namespace Sys2Proof.Proofs

open Sys2Proof Sys2Proof.Machine

/-- Settles O29: a valid span lies in one of the two mapped ranges, and the unmapped address between them keeps a
mapped span from reaching into both. -/
theorem validSpansAreTheMappedOnes : Obligations.ValidSpansAreTheMappedOnes := by
  intro addr len
  refine ⟨⟨fun h => ⟨(spanOk_iff.1 h).1, all_mapped_of_spanOk h⟩,
    fun ⟨hlen, h⟩ => spanOk_of_all_mapped hlen h⟩, by decide, ?rssi⟩
  case rssi =>
    rw [rssiSpanOk_iff]
    simp only [List.mem_cons, List.not_mem_nil, or_false, Prod.mk.injEq]
    omega

/-- Settles O59: a step is reset, waiting, a step of the running operation, or the first step of a taken packet; the
last two answer exactly when they leave the block in idle. -/
theorem oneResponsePerOperation : Obligations.OneResponsePerOperation := by
  intro s t h
  cases hr : resetAsserted s with
  | true =>
    rw [step_reset hr] at h
    cases h
    exact ⟨nofun, .inl rfl, fun _ => rfl, fun _ _ => rfl, .inl rfl, AddsEvents.none (s := s) rfl⟩
  | false =>
    rcases step_waits_or_answers hr h with ⟨hp, hc, rfl⟩ | ⟨hp, ha⟩ | ⟨hp, hc, ha⟩
    · exact ⟨fun _ _ hbusy => absurd hbusy (by simp [hp, hc]), .inl rfl, nofun, fun _ _ => rfl, .inl rfl,
        AddsEvents.none (s := s) rfl⟩
    · exact ⟨fun _ hidle _ => ha.one_of_idle hidle, ha.unchanged_or_one, nofun,
        fun hidle => absurd hidle hp, .inl ha.hostCmds, ha.events⟩
    · exact ⟨fun _ hidle _ => ha.one_of_idle hidle, ha.unchanged_or_one, nofun,
        fun _ hnone => absurd hnone hc, .inr ⟨hp, rfl, ha.hostCmds⟩, ha.events⟩

end Sys2Proof.Proofs

/-!
PROOFS. The decoder and the encoder of host packets are written from the same tables (spec/30_encoding.md R120 to
R124): what each operand layout reads, what each row of the opcode map carries, and that the packet of each operation
is read back; then the same for wire frames and replies (R102 to R105, R109).
-/

namespace Sys2Proof

/-! ### Byte order: a number and its bytes (R76, R78) -/

theorem halfHi_half (h l : Byte) : halfHi (half h l) = h := BitVec.extractLsb'_append_eq_left

theorem halfLo_half (h l : Byte) : halfLo (half h l) = l := BitVec.extractLsb'_append_eq_right

theorem half_halfHi_halfLo (v : Half) : half (halfHi v) (halfLo v) = v :=
  (BitVec.extractLsb'_append_extractLsb'_eq_extractLsb' rfl).trans BitVec.extractLsb'_eq_self

theorem halfBytes_half (h l : Byte) : halfBytes (half h l) = [h, l] := by
  rw [halfBytes, halfHi_half, halfLo_half]

theorem wordBytes_word (b3 b2 b1 b0 : Byte) : wordBytes (word b3 b2 b1 b0) = [b3, b2, b1, b0] := by
  have h3 : (word b3 b2 b1 b0).extractLsb' 24 8 = b3 :=
    (BitVec.extractLsb'_append_eq_of_le (by decide)).trans
      ((BitVec.extractLsb'_append_eq_of_le (by decide)).trans BitVec.extractLsb'_append_eq_left)
  have h2 : (word b3 b2 b1 b0).extractLsb' 16 8 = b2 :=
    (BitVec.extractLsb'_append_eq_of_le (by decide)).trans
      ((BitVec.extractLsb'_append_eq_of_le (by decide)).trans BitVec.extractLsb'_append_eq_right)
  have h1 : (word b3 b2 b1 b0).extractLsb' 8 8 = b1 :=
    (BitVec.extractLsb'_append_eq_of_le (by decide)).trans BitVec.extractLsb'_append_eq_right
  have h0 : (word b3 b2 b1 b0).extractLsb' 0 8 = b0 := BitVec.extractLsb'_append_eq_right
  rw [wordBytes, h3, h2, h1, h0]

theorem word_extractLsb' (v : Word) :
    word (v.extractLsb' 24 8) (v.extractLsb' 16 8) (v.extractLsb' 8 8) (v.extractLsb' 0 8) = v := by
  have h2 : v.extractLsb' 24 8 ++ v.extractLsb' 16 8 = v.extractLsb' 16 16 :=
    BitVec.extractLsb'_append_extractLsb'_eq_extractLsb' rfl
  have h1 : v.extractLsb' 16 16 ++ v.extractLsb' 8 8 = v.extractLsb' 8 24 :=
    BitVec.extractLsb'_append_extractLsb'_eq_extractLsb' rfl
  rw [word, h2, h1]
  exact (BitVec.extractLsb'_append_extractLsb'_eq_extractLsb' rfl).trans BitVec.extractLsb'_eq_self

/-! ### Operand layouts: what each of them reads (R122) -/

/-- `i` is the well-formed host operation whose packet is the opcode `op` and the operand bytes `rest`. -/
structure Carries (op : Byte) (rest : List Byte) (i : Instr) : Prop where
  packet : encode i = op :: rest
  wellFormed : i.wellFormed = true
  host : i.space = .host

/-- What the layout reads after the opcode `op` is what the packet carries. -/
def LayoutCarries (op : Byte) (f : Operands) : Prop := ∀ rest i, f rest = .ok i → Carries op rest i

theorem operandsNone_carries {op : Byte} {i : Instr} (h : Carries op [] i) :
    LayoutCarries op (operandsNone op i) := by
  intro rest j hj
  unfold operandsNone at hj
  split at hj <;> cases hj
  exact h

theorem operandsByte_carries {op : Byte} {f : Byte → Instr} (h : ∀ b, Carries op [b] (f b)) :
    LayoutCarries op (operandsByte op f) := by
  intro rest j hj
  unfold operandsByte at hj
  split at hj <;> cases hj
  exact h _

theorem operandsHalf_carries {op : Byte} {f : Half → Instr} (h : ∀ v, Carries op (halfBytes v) (f v)) :
    LayoutCarries op (operandsHalf op f) := by
  intro rest j hj
  unfold operandsHalf at hj
  split at hj <;> cases hj
  exact halfBytes_half _ _ ▸ h _

theorem operandsWord_carries {op : Byte} {f : Word → Instr} (h : ∀ v, Carries op (wordBytes v) (f v)) :
    LayoutCarries op (operandsWord op f) := by
  intro rest j hj
  unfold operandsWord at hj
  split at hj <;> cases hj
  exact wordBytes_word _ _ _ _ ▸ h _

theorem operandsSpan_carries {op : Byte} {f : Byte → Byte → Instr}
    (h : ∀ addr len, Carries op [addr, len] (f addr len)) : LayoutCarries op (operandsSpan op f) := by
  intro rest j hj
  unfold operandsSpan at hj
  split at hj <;> cases hj
  exact h _ _

/-- The length byte is the number of data bytes (R124). -/
theorem operandsRegWrite_carries : LayoutCarries 0x10 (operandsRegWrite 0x10) := by
  intro rest j hj
  unfold operandsRegWrite at hj
  split at hj
  case h_2 => cases hj
  case h_1 addr len data =>
    split at hj <;> cases hj
    rename_i hlen
    refine ⟨?packet, ?wellFormed, rfl⟩
    case packet => rw [encode, hlen, BitVec.ofNat_toNat, BitVec.setWidth_eq]
    case wellFormed => exact decide_eq_true (hlen ▸ len.isLt)

/-- The two length bytes are the number of buffer bytes (R124). -/
theorem operandsTlmExtract_carries : LayoutCarries 0x20 (operandsTlmExtract 0x20) := by
  intro rest j hj
  unfold operandsTlmExtract at hj
  split at hj
  case h_2 => cases hj
  case h_1 nh nl rxb =>
    split at hj <;> cases hj
    rename_i hlen
    refine ⟨?packet, ?wellFormed, rfl⟩
    case packet =>
      rw [encode, hlen, BitVec.ofNat_toNat, BitVec.setWidth_eq, halfBytes_half]; rfl
    case wellFormed => exact decide_eq_true (hlen ▸ (half nh nl).isLt)

theorem operandsImage_carries : LayoutCarries 0x31 (operandsImage 0x31) := by
  intro rest j hj
  unfold operandsImage at hj
  split at hj <;> cases hj
  exact ⟨rfl, rfl, rfl⟩

theorem tableResult_eq_ok {op table : Byte} {o : Option Instr} {i : Instr}
    (h : tableResult op table o = .ok i) : o = some i := by
  cases o <;> cases h
  rfl

/-- The table byte of a packet is the one its value names. -/
theorem Carries.of_table {op table : Byte} {n : Nat} {rest : List Byte} {i : Instr} (htable : table.toNat = n)
    (h : Carries op (BitVec.ofNat 8 n :: rest) i) : Carries op (table :: rest) i := by
  rwa [← htable, BitVec.ofNat_toNat, BitVec.setWidth_eq] at h

theorem l2cOf_carries {table : Byte} {label : Word} {i : Instr} (h : l2cOf table label = some i) :
    Carries 0x40 (table :: wordBytes label) i := by
  unfold l2cOf at h
  split at h <;> cases h
  all_goals rename_i htable; exact .of_table htable ⟨rfl, rfl, rfl⟩

theorem c2lOf_carries {table code : Byte} {i : Instr} (h : c2lOf table code = some i) :
    Carries 0x41 [table, code] i := by
  unfold c2lOf at h
  split at h <;> cases h
  all_goals rename_i htable; exact .of_table htable ⟨rfl, rfl, rfl⟩

theorem c2nOf_carries {table code : Byte} {i : Instr} (h : c2nOf table code = some i) :
    Carries 0x42 [table, code] i := by
  unfold c2nOf at h
  split at h <;> cases h
  all_goals rename_i htable; exact .of_table htable ⟨rfl, rfl, rfl⟩

theorem operandsL2c_carries : LayoutCarries 0x40 (operandsL2c 0x40) := by
  intro rest j hj
  unfold operandsL2c at hj
  split at hj
  case h_1 => exact wordBytes_word _ _ _ _ ▸ l2cOf_carries (tableResult_eq_ok hj)
  case h_2 => cases hj

theorem operandsC2l_carries : LayoutCarries 0x41 (operandsC2l 0x41) := by
  intro rest j hj
  unfold operandsC2l at hj
  split at hj
  case h_1 => exact c2lOf_carries (tableResult_eq_ok hj)
  case h_2 => cases hj

theorem operandsC2n_carries : LayoutCarries 0x42 (operandsC2n 0x42) := by
  intro rest j hj
  unfold operandsC2n at hj
  split at hj
  case h_1 => exact c2nOf_carries (tableResult_eq_ok hj)
  case h_2 => cases hj

/-! ### The opcode map: what each row reads (R122) -/

theorem commandRows_carry : ∀ row ∈ commandRows, LayoutCarries row.1 row.2 := by
  have opcodeOnly {op : Byte} {i : Instr} (h : Carries op [] i) := operandsNone_carries h
  simp only [commandRows, List.forall_mem_cons]
  exact ⟨opcodeOnly ⟨rfl, rfl, rfl⟩, opcodeOnly ⟨rfl, rfl, rfl⟩, opcodeOnly ⟨rfl, rfl, rfl⟩,
    opcodeOnly ⟨rfl, rfl, rfl⟩, operandsWord_carries fun _ => ⟨rfl, rfl, rfl⟩, operandsRegWrite_carries,
    operandsSpan_carries fun _ _ => ⟨rfl, rfl, rfl⟩, operandsSpan_carries fun _ _ => ⟨rfl, rfl, rfl⟩,
    opcodeOnly ⟨rfl, rfl, rfl⟩, opcodeOnly ⟨rfl, rfl, rfl⟩, opcodeOnly ⟨rfl, rfl, rfl⟩,
    operandsTlmExtract_carries, opcodeOnly ⟨rfl, rfl, rfl⟩, opcodeOnly ⟨rfl, rfl, rfl⟩,
    opcodeOnly ⟨rfl, rfl, rfl⟩, opcodeOnly ⟨rfl, rfl, rfl⟩, operandsImage_carries, operandsL2c_carries,
    operandsC2l_carries, operandsC2n_carries, by simp⟩

/-- The rows of the sixteen fields, twice: the address and the key have two operand bytes, the others one. -/
theorem fieldRows_carry : ∀ row ∈ setterRows ++ commitRows, LayoutCarries row.1 row.2 := by
  simp only [setterRows, commitRows, List.cons_append, List.nil_append, List.forall_mem_cons]
  refine ⟨?setAddr, ?_, ?_, ?_, ?_, ?_, ?_, ?_, ?setKey, ?_, ?_, ?_, ?_, ?_, ?_, ?_,
    ?commitAddr, ?_, ?_, ?_, ?_, ?_, ?_, ?_, ?commitKey, ?_, ?_, ?_, ?_, ?_, ?_, ?_, by simp⟩
  case setAddr | setKey | commitAddr | commitKey => exact operandsHalf_carries fun _ => ⟨rfl, rfl, rfl⟩
  all_goals exact operandsByte_carries fun _ => ⟨rfl, rfl, rfl⟩

theorem opcodeMap_carries : ∀ row ∈ opcodeMap, LayoutCarries row.1 row.2 :=
  List.forall_mem_append.2 ⟨commandRows_carry, fieldRows_carry⟩

theorem mem_of_findRow {op : Byte} {rows : List (Byte × Operands)} {f : Operands}
    (h : findRow op rows = some f) : (op, f) ∈ rows := by
  induction rows with
  | nil => cases h
  | cons row rows ih =>
    obtain ⟨o, g⟩ := row
    by_cases ho : o = op
    · simp only [findRow, ho, if_true, Option.some.injEq] at h
      simp [ho, h]
    · simp only [findRow, ho, if_false] at h
      exact List.mem_cons_of_mem _ (ih h)

/-- A packet that decodes has a listed opcode, and its row reads the operand bytes. -/
theorem decodeCommand_eq_ok {packet : List Byte} {i : Instr} (h : decodeCommand packet = .ok i) :
    ∃ op rest, packet = op :: rest ∧ Carries op rest i := by
  cases packet with
  | nil => cases h
  | cons op rest =>
    simp only [decodeCommand] at h
    cases hf : findRow op opcodeMap with
    | none => rw [hf] at h; cases h
    | some f =>
      rw [hf] at h
      exact ⟨op, rest, rfl, opcodeMap_carries _ (mem_of_findRow hf) rest i h⟩

/-! ### The packet of each operation is read back -/

theorem operandsHalf_halfBytes (op : Byte) (f : Half → Instr) (v : Half) :
    operandsHalf op f (halfBytes v) = .ok (f v) := by
  rw [halfBytes, operandsHalf, half_halfHi_halfLo]

theorem operandsWord_wordBytes (op : Byte) (f : Word → Instr) (v : Word) :
    operandsWord op f (wordBytes v) = .ok (f v) := by
  rw [wordBytes, operandsWord, word_extractLsb']

theorem operandsL2c_wordBytes (table : Byte) (label : Word) :
    operandsL2c 0x40 (table :: wordBytes label) = tableResult 0x40 table (l2cOf table label) := by
  rw [wordBytes, operandsL2c, word_extractLsb']

theorem operandsRegWrite_length {addr : Byte} {data : List Byte} (h : data.length < 256) :
    operandsRegWrite 0x10 (addr :: BitVec.ofNat 8 data.length :: data) = .ok (.regWrite addr data) := by
  have hlen : (BitVec.ofNat 8 data.length).toNat = data.length := Nat.mod_eq_of_lt h
  rw [operandsRegWrite, hlen, if_pos rfl]

theorem operandsTlmExtract_length {rxb : List Byte} (h : rxb.length < 65536) :
    operandsTlmExtract 0x20 (halfBytes (BitVec.ofNat 16 rxb.length) ++ rxb) = .ok (.tlmExtract rxb) := by
  have hlen : (BitVec.ofNat 16 rxb.length).toNat = rxb.length := Nat.mod_eq_of_lt h
  rw [halfBytes, List.cons_append, List.cons_append, List.nil_append, operandsTlmExtract, half_halfHi_halfLo,
    hlen, if_pos rfl]

/-- The row of a listed opcode reads the operand bytes. -/
theorem decodeCommand_cons {op : Byte} {f : Operands} (h : findRow op opcodeMap = some f) (rest : List Byte) :
    decodeCommand (op :: rest) = f rest := by
  rw [decodeCommand, h]

theorem decodeCommand_encode {i : Instr} (hwf : i.wellFormed = true) (hhost : i.space = .host) :
    decodeCommand (encode i) = .ok i := by
  cases i with
  | wireW | wireR | wireQ | wireReply => cases hhost
  | regWrite addr data =>
    exact (decodeCommand_cons rfl _).trans (operandsRegWrite_length (of_decide_eq_true hwf))
  | tlmExtract rxb =>
    exact (decodeCommand_cons rfl _).trans (operandsTlmExtract_length (of_decide_eq_true hwf))
  | setPoll v => exact (decodeCommand_cons rfl _).trans (operandsWord_wordBytes _ _ v)
  | setAddr v | setKey v | commitAddr v | commitKey v =>
    exact (decodeCommand_cons rfl _).trans (operandsHalf_halfBytes _ _ v)
  | l2cBaud v | l2cParity v | l2cAir v | l2cPacket v | l2cPower v | l2cWor v =>
    exact (decodeCommand_cons rfl _).trans (operandsL2c_wordBytes _ v)
  | _ => rfl

/-! ### Wire frames and replies (R102 to R105, R109) -/

theorem decodeRequest_wireW {addr : Byte} {data : List Byte} (h : Machine.spanOk addr data.length = true) :
    decodeRequest (encode (.wireW addr data)) = .ok (.wireW addr data) := by
  obtain ⟨-, hrange⟩ := Machine.spanOk_iff.1 h
  have hlen : (BitVec.ofNat 8 data.length).toNat = data.length := Nat.mod_eq_of_lt (by omega)
  have hw : decodeRequest (encode (.wireW addr data)) = decodeW (addr :: BitVec.ofNat 8 data.length :: data) :=
    if_neg (Laws.wireW_not_q h)
  rw [hw, decodeW, hlen, if_pos rfl]

theorem decode_encode_wire {i : Instr} (hwf : i.wellFormed = true) (hwire : i.space ≠ .host) :
    decode i.space (encode i) = .ok i := by
  cases i with
  | wireW addr data => exact decodeRequest_wireW hwf
  | wireR addr len => rfl
  | wireQ addr len => rfl
  | wireReply h0 h1 h2 data =>
    have hlen : 1 ≤ data.length ∧ data.length ≤ 9 := by
      simpa only [Instr.wellFormed, Bool.and_eq_true, decide_eq_true_eq] using hwf
    exact if_pos hlen
  | _ => exact absurd rfl hwire

end Sys2Proof

/-!
PROOFS. The packets R124 calls illegal: those that do not decode, and those that decode to an operation whose operand
check fails (R179, R196, R304).
-/

namespace Sys2Proof.Machine

/-! ### Illegal operands -/

/-- The operand checks that R124 answers with status 1: field values of the setters and set-and-commits, and the
buffer length of `TLM_EXTRACT`. -/
def operandsLegal : Instr → Bool
  | .tlmExtract rxb => decide (1 ≤ rxb.length) && decide (rxb.length ≤ rxbufMax)
  | .setAddr v | .commitAddr v => fieldLegal (.addr v)
  | .setNetid v | .commitNetid v => fieldLegal (.netid v)
  | .setBaud v | .commitBaud v => fieldLegal (.baud v)
  | .setAir v | .commitAir v => fieldLegal (.air v)
  | .setParity v | .commitParity v => fieldLegal (.parity v)
  | .setPacket v | .commitPacket v => fieldLegal (.packet v)
  | .setPower v | .commitPower v => fieldLegal (.power v)
  | .setChannel v | .commitChannel v => fieldLegal (.channel v)
  | .setKey v | .commitKey v => fieldLegal (.key v)
  | .setNoiseEn v | .commitNoiseEn v => fieldLegal (.noiseEn v)
  | .setRssiEn v | .commitRssiEn v => fieldLegal (.rssiEn v)
  | .setFixed v | .commitFixed v => fieldLegal (.fixed v)
  | .setRepeater v | .commitRepeater v => fieldLegal (.repeater v)
  | .setLbt v | .commitLbt v => fieldLegal (.lbt v)
  | .setWor v | .commitWor v => fieldLegal (.wor v)
  | .setWorCycle v | .commitWorCycle v => fieldLegal (.worCycle v)
  | _ => true

theorem setField_illegal {i : Instr} {w : FieldWrite} {s : State} (hset : exec i s = setField w s)
    (h : fieldLegal w = false) : exec i s = .next (faulted 1 s) := by
  rw [hset, setField, checkedStep, h]; rfl

/-- An operation that begins with a check which fails ends in its first step with the class's code. -/
theorem exec_idle_raise {i : Instr} {s : State} {loc : Loc} {m : Micro} {rest : StepList} {f : FaultClass}
    (hs : stepListOf i = (loc, m) :: rest) (hphase : s.phase = .idle) (hm : runMicro m s = .raise f s) :
    exec i s = .next (faulted (faultCode f) s) := by
  rw [exec_idle hs hphase, hm]; rfl

theorem setCommit_illegal {i : Instr} {w : FieldWrite} {s : State} (hs : stepListOf i = setCommitSteps w)
    (hphase : s.phase = .idle) (h : fieldLegal w = false) : exec i s = .next (faulted 1 s) :=
  exec_idle_raise (f := .invalidArgument) hs hphase (by rw [runMicro, h]; rfl)

theorem exec_illegal {i : Instr} {s : State} (hphase : s.phase = .idle) (h : operandsLegal i = false) :
    exec i s = .next (faulted 1 s) := by
  cases i with
  | tlmExtract rxb =>
    have hm : runMicro (.clearExtract (operandsLegal (.tlmExtract rxb))) s = .raise .invalidArgument s := by
      rw [runMicro, h]; rfl
    exact exec_idle_raise (i := .tlmExtract rxb) rfl hphase hm
  | setAddr | setNetid | setBaud | setAir | setParity | setPacket | setPower | setChannel | setKey | setNoiseEn
  | setRssiEn | setFixed | setRepeater | setLbt | setWor | setWorCycle => exact setField_illegal rfl h
  | commitAddr | commitNetid | commitBaud | commitAir | commitParity | commitPacket | commitPower | commitChannel
  | commitKey | commitNoiseEn | commitRssiEn | commitFixed | commitRepeater | commitLbt | commitWor
  | commitWorCycle => exact setCommit_illegal rfl hphase h
  | _ => cases h

/-! ### Illegal packets that decode -/

theorem illegalPacket_regWrite {addr : Byte} {data : List Byte} (h : data.length < 256) :
    illegalPacket (encode (.regWrite addr data)) = false := by
  simp [illegalPacket, encode, Nat.mod_eq_of_lt h]
  omega

theorem illegalPacket_tlmExtract {rxb : List Byte} (h : rxb.length < 65536) :
    illegalPacket (encode (.tlmExtract rxb)) = !operandsLegal (.tlmExtract rxb) := by
  have hvalue := Laws.halfBytes_value rxb.length h
  rw [Bool.eq_iff_iff]
  simp [illegalPacket, encode, halfBytes, hvalue, operandsLegal]
  omega

/-- A one-byte operand of a field is illegal above the field's largest value. -/
theorem illegalPacket_fieldByte {op : Byte} (v : Byte) (hop : 0x60 ≤ op.toNat ∧ op.toNat ≤ 0x7F)
    (hbyte : ¬ (op.toNat % 16 = 0 ∨ op.toNat % 16 = 8)) :
    illegalPacket [op, v] = decide (largestValue (op.toNat % 16) < v.toNat) := by
  have hrows : ∀ o, o < 0x60 → op.toNat ≠ o := by omega
  simp [illegalPacket, hrows, hop, hbyte]

theorem decide_lt_eq_not_decide_lt_succ (n v : Nat) : decide (n < v) = !decide (v < n + 1) := by
  rw [← decide_not, decide_eq_decide, Nat.not_lt, Nat.succ_le_iff]

/-- The packet of an operation is illegal exactly when its operands are: byte count and table id are right. -/
theorem illegalPacket_encode {i : Instr} (hwf : i.wellFormed = true) (hhost : i.space = .host) :
    illegalPacket (encode i) = !operandsLegal i := by
  cases i with
  | wireW | wireR | wireQ | wireReply => cases hhost
  | regWrite addr data => exact illegalPacket_regWrite (of_decide_eq_true hwf)
  | tlmExtract rxb => exact illegalPacket_tlmExtract (of_decide_eq_true hwf)
  | setNetid v | setChannel v | commitNetid v | commitChannel v =>
    have hmax : ¬ 255 < v.toNat := Nat.not_lt.2 (Nat.le_of_lt_succ v.isLt)
    exact (illegalPacket_fieldByte v (by decide) (by decide)).trans (decide_eq_false hmax)
  | setBaud v | setAir v | setWorCycle v | commitBaud v | commitAir v | commitWorCycle v =>
    exact (illegalPacket_fieldByte v (by decide) (by decide)).trans (decide_lt_eq_not_decide_lt_succ 7 v.toNat)
  | setParity v | setPacket v | setPower v | commitParity v | commitPacket v | commitPower v =>
    exact (illegalPacket_fieldByte v (by decide) (by decide)).trans (decide_lt_eq_not_decide_lt_succ 3 v.toNat)
  | setNoiseEn v | setRssiEn v | setFixed v | setRepeater v | setLbt v | setWor v
  | commitNoiseEn v | commitRssiEn v | commitFixed v | commitRepeater v | commitLbt v | commitWor v =>
    exact (illegalPacket_fieldByte v (by decide) (by decide)).trans (decide_lt_eq_not_decide_lt_succ 1 v.toNat)
  | _ => rfl

end Sys2Proof.Machine

/-!
PROOFS. What the statements of spec/30_encoding.md say of runs: a transition without fault (R223, R285) and the run of
`REG_READ` around it (R262), the echo of `REG_WRITE` (R257), the answer of `TLM_GET` (R322).
-/

namespace Sys2Proof.Machine

/-! ### Transitions that complete -/

theorem completes_append {p q : StepList} {s t u : State} (hp : completes (p.map Prod.snd) s = some t)
    (hq : completes (q.map Prod.snd) t = some u) : completes ((p ++ q).map Prod.snd) s = some u := by
  induction p generalizing s with
  | nil => cases hp; exact hq
  | cons e p ih =>
    obtain ⟨r, hm, hr⟩ := completes_cons_iff.1 hp
    exact completes_cons hm (ih hr)

theorem poll_ready {s : State} {busy : List BusyAnswer} (h : s.busyIn = .lvl true :: busy) :
    runMicro .poll s = .go { s with
      busyIn := busy, frees := s.frees + 1, trace := ⟨.gRd, .lvl true⟩ :: s.trace } := by
  simp [runMicro, pollStep, afterBusy, nextBusy, h, logEvent, busyAnswer, readyLevel]

/-- A transition that passes its check, finds BUSY ready and has its events acknowledged (R223, R285). -/
theorem completes_transition (place : Option Nat → Loc) {t : Mode} {b : BitVec 3} {p : BitVec 2} {s : State}
    {busy : List BusyAnswer} {acks : List AckAnswer}
    (hcheck : transCheckStep t s = .go { s with tb := b, tp := p }) (hbusy : s.busyIn = .lvl true :: busy)
    (hack : s.ackIn = List.replicate 4 .ok ++ acks) :
    completes ((transitionSteps place t).map Prod.snd) s =
      some { afterTransition t b p s with busyIn := busy, ackIn := acks } := by
  refine completes_cons hcheck ?_
  refine completes_cons (poll_ready hbusy) ?_
  refine completes_cons (drive_ok .a _ hack) ?_
  refine completes_cons (drive_ok .b _ rfl) ?_
  refine completes_cons (uartConfigure_ok rfl) ?_
  refine completes_cons (uartReadRule_ok _ _ rfl) ?_
  exact completes_cons rfl (completes_nil _)

/-- Steps 1 to 3 of `REG_WRITE` and `REG_READ` for a valid span (R251, R252, R256, R262). -/
theorem completes_checksAndConfig {someByte spanValid : Bool} {s : State} {busy : List BusyAnswer}
    {acks : List AckAnswer} (hsome : someByte = true) (hvalid : spanValid = true)
    (hbusy : s.busyIn = .lvl true :: busy) (hack : s.ackIn = List.replicate 4 .ok ++ acks) :
    completes ((Proofs.checksAndConfig someByte spanValid).map Prod.snd) s =
      some { afterTransition .config controlBaud controlParity s with busyIn := busy, ackIn := acks } := by
  subst hsome hvalid
  refine completes_cons rfl (completes_cons rfl ?_)
  exact completes_transition (topLoc 3) (transCheckStep_control (m := .config) s rfl) hbusy hack

/-! ### `REG_READ` -/

/-- The steps of `REG_READ` before its report (R262). -/
def regReadBlock (addr len : Byte) : StepList :=
  Proofs.checksAndConfig (decide (1 ≤ len.toNat)) (spanOk addr len.toNat) ++
    (readExchange topLoc (frameR addr len) len.toNat ++ transitionSteps (topLoc 8) .normal)

theorem regReadSteps_eq_block (addr len : Byte) :
    regReadSteps addr len = regReadBlock addr len ++ [(topLoc 9 none, .done (.data len.toNat))] := rfl

theorem completes_regReadBlock {addr len : Byte} {reply : List Byte} {s : State} {busy : List BusyAnswer}
    {acks : List AckAnswer} {counts : List CountAnswer} {reads : List ReadAnswer}
    (hspan : spanOk addr len.toNat = true) (hnative : hasNative s.record)
    (hlen : reply.length = 3 + len.toNat) (hbusy : s.busyIn = .lvl true :: .lvl true :: busy)
    (hack : s.ackIn = List.replicate 8 .ok ++ acks) (hcount : s.countIn = .cnt 3 :: counts)
    (hread : s.readIn = .bytes reply :: reads) :
    completes ((regReadBlock addr len).map Prod.snd) s =
      some (withInputs busy acks counts reads (afterReadExchange (frameR addr len) reply len.toNat s)) := by
  obtain ⟨hsome, hrange⟩ := spanOk_iff.1 hspan
  have hmax : reply.length ≤ frameMax := by simp only [frameMax]; omega
  have hframe : (frameR addr len).length ≤ frameMax := by simp [frameR, frameMax]
  refine completes_append (completes_checksAndConfig (decide_eq_true hsome) hspan hbusy hack) ?_
  refine completes_append (completes_readExchange topLoc hframe (counts := counts) (reads := reads) ?count ?read
    hlen hmax) ?closing
  case count => exact hcount
  case read => exact hread
  case closing => exact completes_transition (topLoc 8) (transCheckStep_native rfl hnative) rfl rfl

/-- `REG_READ` of a valid span answers the data part of the reply (R262, R108). -/
theorem runExec_regRead {addr len : Byte} {reply : List Byte} {s : State} {busy : List BusyAnswer}
    {acks : List AckAnswer} {counts : List CountAnswer} {reads : List ReadAnswer} (hphase : s.phase = .idle)
    (hspan : spanOk addr len.toNat = true) (hnative : hasNative s.record)
    (hlen : reply.length = 3 + len.toNat) (hbusy : s.busyIn = .lvl true :: .lvl true :: busy)
    (hack : s.ackIn = List.replicate 8 .ok ++ acks) (hcount : s.countIn = .cnt 3 :: counts)
    (hread : s.readIn = .bytes reply :: reads) :
    runExec (.regRead addr len) 21 s = .next (answered (rxData reply len.toNat)
      (withInputs busy acks counts reads (afterReadExchange (frameR addr len) reply len.toNat s))) := by
  have hl : Listed (.regRead addr len) := .regRead addr len
  have hsteps : remaining (stepListOf (.regRead addr len)) s.phase =
      regReadBlock addr len ++ [(topLoc 9 none, .done (.data len.toNat))] := by
    rw [hphase]
    exact regReadSteps_eq_block addr len
  exact runExec_of_completes hl.exec_eq hl.places_nodup hsteps
    (completes_regReadBlock hspan hnative hlen hbusy hack hcount hread)

/-! ### The echo of `REG_WRITE` (R256 steps 7 and 9, R257) -/

theorem recvStep_of_cons {k : Nat} {s : State} {reply : List Byte} {reads : List ReadAnswer}
    (h : s.readIn = .bytes reply :: reads) :
    let read := { s with
      rxf := reply.take frameMax, readIn := reads, frees := s.frees + 1
      trace := ⟨.uRd k, .bytes reply⟩ :: s.trace }
    recvStep k s = if reply.length = k then .go read else .raise .protocolFault read := by
  simp [recvStep, afterRead, nextRead, h, logEvent, readAnswer]

/-- With as many bytes received as sent, the check compares all bytes but the first. -/
theorem checkEchoStep_of_cons {s : State} {b c : Byte} {sent got : List Byte} (htx : s.txf = b :: sent)
    (hrx : s.rxf = c :: got) (hlen : got.length = sent.length) :
    checkEchoStep s = if got = sent then .go s else .raise .protocolFault s := by
  simp [checkEchoStep, htx, hrx, ← hlen]

theorem exec_regWrite_recvEcho {addr : Byte} {data : List Byte} {op : Instr} {s : State} {reply : List Byte}
    {reads : List ReadAnswer} (hphase : s.phase = .run op ⟨7, [], none⟩)
    (hread : s.readIn = .bytes reply :: reads) :
    let read := { s with
      rxf := reply.take frameMax, readIn := reads, frees := s.frees + 1
      trace := ⟨.uRd s.txf.length, .bytes reply⟩ :: s.trace }
    exec (.regWrite addr data) s = .next (if reply.length = s.txf.length
      then { read with phase := .run (.regWrite addr data) ⟨8, [], none⟩ }
      else faulted 4 read) := by
  rw [exec_at (suffix_of_drop 12 rfl) hphase, runMicro, recvStep_of_cons hread]
  split <;> rfl

theorem exec_regWrite_checkEcho {addr : Byte} {data : List Byte} {op : Instr} {s : State} {b c : Byte}
    {sent got : List Byte} (hphase : s.phase = .run op ⟨9, [], none⟩) (htx : s.txf = b :: sent)
    (hrx : s.rxf = c :: got) (hlen : got.length = sent.length) :
    exec (.regWrite addr data) s = .next (if got = sent
      then { s with phase := .run (.regWrite addr data) ⟨10, [], some 1⟩ }
      else faulted 4 s) := by
  rw [exec_at (suffix_of_drop 14 rfl) hphase, runMicro, checkEchoStep_of_cons htx hrx hlen]
  split <;> rfl

/-! ### `TLM_GET` (R322) -/

theorem exec_tlmGet (s : State) :
    exec .tlmGet s = .next (answered (tlmGetResult s) { s with frees := s.frees + 5 }) := rfl

theorem floorByte_of_some {s : State} {f : Byte} (h : s.floor = some f) : floorByte s = f := by
  rw [floorByte, h]; rfl

theorem tailBytes_of_some {s : State} {g : Segment} (h : s.tail = some g) : tailBytes s = segmentBytes g := by
  rw [tailBytes, h]

theorem tailBytes_length (s : State) : (tailBytes s).length = 4 := by
  unfold tailBytes
  split <;> rfl

end Sys2Proof.Machine

/-!
PROOFS. The statements of spec/30_encoding.md.
-/

namespace Sys2Proof.Proofs

open Sys2Proof Sys2Proof.Machine

/-- Settles O1: the operation's opcode has its row, and the row's layout reads the operand bytes back. -/
theorem decodeEncodeHost : Obligations.DecodeEncodeHost := fun _ => decodeCommand_encode

/-- Settles O2: a write frame of a valid span is no Q frame, since 0xC1 is no mapped address. -/
theorem decodeEncodeWire : Obligations.DecodeEncodeWire := fun _ => decode_encode_wire

/-- Settles O3: every row of the opcode map reads only what the packet carries. -/
theorem encodeDecodeHost : Obligations.EncodeDecodeHost := by
  intro packet i h
  obtain ⟨op, rest, rfl, hc⟩ := decodeCommand_eq_ok h
  exact ⟨hc.packet, hc.wellFormed, hc.host⟩

/-- Settles O4, by evaluation of the decoder. -/
theorem specWordsDecode : Obligations.SpecWordsDecode := by
  unfold Obligations.SpecWordsDecode
  decide

/-- Settles O5: a packet that does not decode is refused; one that does is the packet of an operation whose operand
check fails, and that check is its first step. -/
theorem illegalPacketsAnsweredOne : Obligations.IllegalPacketsAnsweredOne := by
  intro s packet others hr hphase hcmds hillegal
  have hoffered : offered s = some (decode .host packet) := by rw [offered, hcmds]; rfl
  have htaken : takePacket (sampleReset s) = { s with hostCmds := others, resetPin := s.resetPin.tail } := by
    rw [takePacket, sampleReset, hcmds]; rfl
  rw [step_idle hr hphase, hoffered, ← htaken]
  cases hd : decode .host packet with
  | error e => rfl
  | ok i =>
    obtain ⟨rfl, hwf, hhost⟩ := encodeDecodeHost packet i hd
    have hop : operandsLegal i = false := by
      simpa only [illegalPacket_encode hwf hhost, Bool.not_eq_true'] using hillegal
    exact exec_illegal hphase hop

/-- Settles O32: step 7 receives as many bytes as the frame has, step 9 compares all but the first. -/
theorem echoCheckIgnoresByteZero : Obligations.EchoCheckIgnoresByteZero := by
  intro addr data op s b c sent got reply reads htx
  have hlen : s.txf.length = 1 + sent.length := by rw [htx, List.length_cons, Nat.add_comm]
  refine ⟨fun hphase hread => ?receive, fun hphase hrx hgot => ⟨fun heq => ?equal, fun hne => ?different⟩⟩
  case receive => exact hlen ▸ exec_regWrite_recvEcho hphase hread
  case equal => rw [exec_regWrite_checkEcho hphase htx hrx hgot, if_pos heq]
  case different => rw [exec_regWrite_checkEcho hphase htx hrx hgot, if_neg hne]

/-- Settles O33: the two checks, the transition to Config, the exchange and the transition to Normal complete one
after another, and the report is the reply without its three header bytes. -/
theorem regReadCompletes : Obligations.RegReadCompletes := by
  intro addr len h0 h1 h2 data s busy acks counts reads hphase hspan hnative hlen hbusy hack hcount hread
  have hreply : (h0 :: h1 :: h2 :: data).length = 3 + len.toNat := by rw [reply_length, hlen]
  rw [runExec_regRead hphase hspan hnative hreply hbusy hack hcount hread, rxData_eq hlen]
  rfl

/-- Settles O51: the free bytes are those the model takes for `floor_raw` and `tail`. -/
theorem tlmGetResult : Obligations.TlmGetResult := by
  intro s
  refine ⟨[floorByte s], tailBytes s, fun f hf => by rw [floorByte_of_some hf], rfl,
    fun g hg => tailBytes_of_some hg, tailBytes_length s, ?answer⟩
  case answer =>
    rw [exec_tlmGet, Machine.tlmGetResult]
    simp only [List.append_assoc]
    rfl

end Sys2Proof.Proofs

/-!
PROOFS. The codec tables (spec/40_codec_tables.md R141, R144): what the two lookups find, what the operations `L2C`,
`C2L` and `C2N` answer over any table, and what the well-formedness of a `CODEC` gives of each of its six tables.
-/

namespace Sys2Proof.Machine

/-! ### The lookups -/

/-- A row is the only one with its key, so the search for the key finds it. -/
theorem find?_key_of_mem {κ : Type} [BEq κ] [LawfulBEq κ] {key : Byte × Word → κ} {t : CodecTable}
    {row : Byte × Word} (hkeys : (t.map key).Nodup) (hrow : row ∈ t) :
    t.find? (fun r => key r == key row) = some row := by
  have hsome : (t.find? fun r => key r == key row).isSome := List.find?_isSome.mpr ⟨row, hrow, beq_self_eq_true _⟩
  obtain ⟨r, hr⟩ := Option.isSome_iff_exists.mp hsome
  have hkey : key r = key row := by simpa using List.find?_some hr
  rw [hr, List.inj_on_of_nodup_map hkeys (List.mem_of_find?_eq_some hr) hrow hkey]

theorem codeOf?_of_mem {t : CodecTable} {code : Byte} {label : Word} (hlabels : (t.map Prod.snd).Nodup)
    (hrow : (code, label) ∈ t) : codeOf? t label = some code :=
  congrArg (Option.map Prod.fst) (find?_key_of_mem hlabels hrow)

theorem labelOf?_of_mem {t : CodecTable} {code : Byte} {label : Word} (hcodes : (t.map Prod.fst).Nodup)
    (hrow : (code, label) ∈ t) : labelOf? t code = some label :=
  congrArg (Option.map Prod.snd) (find?_key_of_mem hcodes hrow)

theorem mem_of_codeOf?_eq_some {t : CodecTable} {code : Byte} {label : Word} (h : codeOf? t label = some code) :
    (code, label) ∈ t := by
  obtain ⟨row, hfind, rfl⟩ := Option.map_eq_some_iff.mp h
  obtain rfl : row.2 = label := by simpa using List.find?_some hfind
  exact List.mem_of_find?_eq_some hfind

theorem codeOf?_eq_none_iff {t : CodecTable} {label : Word} :
    codeOf? t label = none ↔ ∀ row ∈ t, row.2 ≠ label := by
  simp [codeOf?]

theorem labelOf?_eq_none_iff {t : CodecTable} {code : Byte} :
    labelOf? t code = none ↔ ∀ row ∈ t, row.1 ≠ code := by
  simp [labelOf?]

theorem codeOf_mem {t : CodecTable} {label : Word} (h : hasLabel t label = true) : (codeOf t label, label) ∈ t := by
  obtain ⟨code, hcode⟩ := Option.isSome_iff_exists.mp h
  rw [codeOf, hcode]
  exact mem_of_codeOf?_eq_some hcode

/-! ### `L2C`, `C2L` and `C2N` over any table -/

theorem labelToCode_of_mem {t : CodecTable} {code : Byte} {label : Word} (missDefault : Word)
    (hlabels : (t.map Prod.snd).Nodup) (hrow : (code, label) ∈ t) : labelToCode t missDefault label = code := by
  rw [labelToCode, codeOf?_of_mem hlabels hrow, Option.getD_some]

/-- R146: the code of the label's row, or without one the code of the miss default. -/
theorem labelToCode_row {t : CodecTable} {missDefault : Word} (hdefault : hasLabel t missDefault = true)
    (label : Word) :
    (labelToCode t missDefault label, label) ∈ t ∨
      ((∀ row ∈ t, row.2 ≠ label) ∧ (labelToCode t missDefault label, missDefault) ∈ t) := by
  rw [labelToCode]
  cases hfind : codeOf? t label with
  | some code => exact .inl (mem_of_codeOf?_eq_some hfind)
  | none => exact .inr ⟨codeOf?_eq_none_iff.mp hfind, codeOf_mem hdefault⟩

theorem codeToLabel_of_mem {t : CodecTable} {code : Byte} {label : Word} (hcodes : (t.map Prod.fst).Nodup)
    (hrow : (code, label) ∈ t) : codeToLabel t code = some label := labelOf?_of_mem hcodes hrow

theorem codeToLabel_of_noRow {t : CodecTable} {code : Byte} (hnone : ∀ row ∈ t, row.1 ≠ code) :
    codeToLabel t code = none := labelOf?_eq_none_iff.mpr hnone

theorem codeToNative_of_mem {t : CodecTable} {code : Byte} (hcodes : (t.map Prod.fst).Nodup)
    (hrow : ∃ label, (code, label) ∈ t) : codeToNative t code = code := by
  obtain ⟨label, hmem⟩ := hrow
  rw [codeToNative, labelOf?_of_mem hcodes hmem, Option.isSome_some, if_pos rfl]

theorem codeToNative_of_noRow {t : CodecTable} {code : Byte} (hnone : ∀ row ∈ t, row.1 ≠ code) :
    codeToNative t code = 0xFF := by
  rw [codeToNative, labelOf?_eq_none_iff.mpr hnone, Option.isSome_none, if_neg Bool.false_ne_true, notFound]

theorem l2cStep_answer {t : CodecTable} {missDefault : Word} (hdefault : hasLabel t missDefault = true)
    (label : Word) (s : State) :
    ∃ code, l2cStep t missDefault label s = .next (answered [code] s) ∧
      ((code, label) ∈ t ∨ ((∀ row ∈ t, row.2 ≠ label) ∧ (code, missDefault) ∈ t)) :=
  ⟨labelToCode t missDefault label, rfl, labelToCode_row hdefault label⟩

theorem c2lStep_found {t : CodecTable} {code : Byte} {label : Word} (s : State)
    (hcodes : (t.map Prod.fst).Nodup) (hrow : (code, label) ∈ t) :
    c2lStep t code s = .next (answered (1 :: wordBytes label) s) := by
  rw [c2lStep, codeToLabel_of_mem hcodes hrow]
  rfl

theorem c2lStep_miss {t : CodecTable} {code : Byte} (s : State) (hnone : ∀ row ∈ t, row.1 ≠ code) :
    c2lStep t code s = .next (answered (0 :: freeBytes s 4) { s with frees := s.frees + 4 }) := by
  rw [c2lStep, codeToLabel_of_noRow hnone]
  rfl

theorem c2nStep_found {t : CodecTable} {code : Byte} (s : State) (hcodes : (t.map Prod.fst).Nodup)
    (hrow : ∃ label, (code, label) ∈ t) : c2nStep t code s = .next (answered [code] s) := by
  rw [c2nStep, codeToNative_of_mem hcodes hrow]
  rfl

theorem c2nStep_miss {t : CodecTable} {code : Byte} (s : State) (hnone : ∀ row ∈ t, row.1 ≠ code) :
    c2nStep t code s = .next (answered [0xFF] s) := by
  rw [c2nStep, codeToNative_of_noRow hnone]
  rfl

/-! ### Well-formed tables (R144) -/

/-- Both directions are functions on the table, and the miss default has a row. -/
structure Invertible (t : CodecTable) (missDefault : Word) : Prop where
  codes : (t.map Prod.fst).Nodup
  labels : (t.map Prod.snd).Nodup
  hasDefault : hasLabel t missDefault = true

theorem invertible_of_tableWf {width : Nat} {t : CodecTable} {missDefault : Word} (hwf : tableWf width t = true)
    (hdefault : hasLabel t missDefault = true) : Invertible t missDefault := by
  simp only [tableWf, Bool.and_eq_true, decide_eq_true_eq] at hwf
  obtain ⟨⟨hcodes, hlabels⟩, -⟩ := hwf
  exact ⟨hcodes, hlabels, hdefault⟩

theorem hasLabel_of_labelsAre {t : CodecTable} {labels : List Word} {label : Word}
    (h : labelsAre t labels = true) (hmem : label ∈ labels) : hasLabel t label = true :=
  List.all_eq_true.mp (Bool.and_eq_true_iff.mp h).2 label hmem

/-- The six tables of a well-formed `CODEC`, each with its miss default of R145. -/
structure InvertibleTables (c : Codec) : Prop where
  baud : Invertible c.baud baudDefault
  parity : Invertible c.parity parityDefault
  air : Invertible c.air airDefault
  packet : Invertible c.packet packetDefault
  power : Invertible c.power powerDefault
  wor : Invertible c.wor worDefault

theorem invertibleTables_of_codecWf {c : Codec} (h : codecWf c = true) : InvertibleTables c := by
  simp only [codecWf, Bool.and_eq_true] at h
  obtain ⟨⟨⟨⟨⟨⟨⟨⟨⟨⟨⟨⟨⟨⟨⟨baud, parity⟩, air⟩, packet⟩, power⟩, wor⟩, baud9600⟩, parity0⟩, air2400⟩, wor2000⟩,
    packetLabels⟩, powerLabels⟩, -⟩, -⟩, -⟩, -⟩ := h
  exact {
    baud := invertible_of_tableWf baud baud9600
    parity := invertible_of_tableWf parity parity0
    air := invertible_of_tableWf air air2400
    packet := invertible_of_tableWf packet (hasLabel_of_labelsAre packetLabels (by simp [packetDefault]))
    power := invertible_of_tableWf power (hasLabel_of_labelsAre powerLabels (by simp [powerDefault]))
    wor := invertible_of_tableWf wor wor2000 }

/-- The default `CODEC` (log 8) meets R144. -/
theorem codec_invertibleTables : InvertibleTables codec := invertibleTables_of_codecWf (by decide)

theorem Invertible.label_code_label {t : CodecTable} {missDefault : Word} (h : Invertible t missDefault)
    {row : Byte × Word} (hrow : row ∈ t) : codeToLabel t (labelToCode t missDefault row.2) = some row.2 := by
  rw [labelToCode_of_mem missDefault h.labels hrow, codeToLabel_of_mem h.codes hrow]

theorem Invertible.code_label_code {t : CodecTable} {missDefault : Word} (h : Invertible t missDefault)
    {row : Byte × Word} (hrow : row ∈ t) :
    (codeToLabel t row.1).map (labelToCode t missDefault) = some row.1 := by
  rw [codeToLabel_of_mem h.codes hrow, Option.map_some, labelToCode_of_mem missDefault h.labels hrow]

end Sys2Proof.Machine

/-!
PROOFS. The statements of spec/40_codec_tables.md.
-/

namespace Sys2Proof.Proofs

open Sys2Proof Sys2Proof.Machine

/-- Settles O6: each of the six operations is `l2cStep` on its table, which has a row for its miss default. -/
theorem labelToCodeResults : Obligations.LabelToCodeResults := by
  intro label s
  obtain ⟨baud, parity, air, packet, power, wor⟩ := codec_invertibleTables
  exact ⟨l2cStep_answer baud.hasDefault label s, l2cStep_answer parity.hasDefault label s,
    l2cStep_answer air.hasDefault label s, l2cStep_answer packet.hasDefault label s,
    l2cStep_answer power.hasDefault label s, l2cStep_answer wor.hasDefault label s⟩

/-- Settles O7: each of the six operations is `c2lStep` on its table, in which no code stands twice. -/
theorem codeToLabelResults : Obligations.CodeToLabelResults := by
  intro code label s
  obtain ⟨baud, parity, air, packet, power, wor⟩ := codec_invertibleTables
  exact ⟨c2lStep_found s baud.codes, c2lStep_miss s, c2lStep_found s parity.codes, c2lStep_miss s,
    c2lStep_found s air.codes, c2lStep_miss s, c2lStep_found s packet.codes, c2lStep_miss s,
    c2lStep_found s power.codes, c2lStep_miss s, c2lStep_found s wor.codes, c2lStep_miss s⟩

/-- Settles O8: both operations are `c2nStep` on their tables. -/
theorem codeToNativeResults : Obligations.CodeToNativeResults := by
  intro code s
  obtain ⟨baud, parity, -⟩ := codec_invertibleTables
  exact ⟨c2nStep_found s baud.codes, c2nStep_miss s, c2nStep_found s parity.codes, c2nStep_miss s⟩

/-- Settles O9: on each table no code and no label stands twice (R144), so both lookups find the entry itself. -/
theorem codecRoundTrips : Obligations.CodecRoundTrips := by
  intro c hwf td htd row hrow
  obtain ⟨baud, parity, air, packet, power, wor⟩ := invertibleTables_of_codecWf hwf
  have htable : Invertible td.1 td.2 := by
    simp only [List.mem_cons, List.not_mem_nil, or_false] at htd
    rcases htd with rfl | rfl | rfl | rfl | rfl | rfl <;> assumption
  exact ⟨htable.label_code_label hrow, htable.code_label_code hrow⟩

end Sys2Proof.Proofs

/-!
PROOFS. The register image (spec/41_register_image.md R172, R173): each byte of an encoded record and each field of a
decoded image as a number, and the three bits of byte 4 that no field owns (R175).
-/

namespace Sys2Proof.Machine

/-! ### Bits as numbers -/

theorem toNat_append_eq_add {m n : Nat} (x : BitVec m) (y : BitVec n) :
    (x ++ y).toNat = 2 ^ n * x.toNat + y.toNat := by
  rw [BitVec.toNat_append, ← Nat.shiftLeft_add_eq_or_of_lt y.isLt, Nat.shiftLeft_eq, Nat.mul_comm]

theorem toNat_extractLsb'_eq_div_mod {w : Nat} (x : BitVec w) (start len : Nat) :
    (x.extractLsb' start len).toNat = x.toNat / 2 ^ start % 2 ^ len := by
  rw [BitVec.extractLsb'_toNat, Nat.shiftRight_eq_div_pow]

theorem toNat_getLsbD {w : Nat} (x : BitVec w) (i : Nat) : (x.getLsbD i).toNat = x.toNat / 2 ^ i % 2 :=
  Nat.toNat_testBit x.toNat i

theorem toNat_half (h l : Byte) : (half h l).toNat = 256 * h.toNat + l.toNat := toNat_append_eq_add h l

/-! ### The bytes of an encoded record (R172) -/

theorem encodeRecord_reg0_toNat (r : Record) :
    (encodeRecord r).reg0.toNat = 32 * r.baud.toNat + 8 * r.parity.toNat + r.air.toNat := by
  simp only [encodeRecord, toNat_append_eq_add]
  omega

theorem encodeRecord_reg1_toNat (r : Record) :
    (encodeRecord r).reg1.toNat = 64 * r.packet.toNat + 32 * r.noiseEn.toNat + r.power.toNat := by
  have hzero : (0 : BitVec 3).toNat = 0 := rfl
  simp only [encodeRecord, toNat_append_eq_add, BitVec.toNat_ofBool, hzero]
  omega

theorem encodeRecord_reg3_toNat (r : Record) :
    (encodeRecord r).reg3.toNat = 128 * r.rssiEn.toNat + 64 * r.fixed.toNat + 32 * r.repeater.toNat +
      16 * r.lbt.toNat + 8 * r.wor.toNat + r.worCycle.toNat := by
  simp only [encodeRecord, toNat_append_eq_add, BitVec.toNat_ofBool]
  omega

/-! ### The fields of a decoded image (R173, R176) -/

/-- The fields that share byte 3 (`reg0`), each as the number its bits make. -/
theorem decodeRecord_reg0_fields (m : Image) :
    (decodeRecord m).baud.toNat = m.reg0.toNat / 32 ∧ (decodeRecord m).parity.toNat = m.reg0.toNat / 8 % 4 ∧
    (decodeRecord m).air.toNat = m.reg0.toNat % 8 := by
  have hbyte := m.reg0.isLt
  simp only [decodeRecord, toNat_extractLsb'_eq_div_mod]
  omega

/-- The fields that share byte 4 (`reg1`); its bits 4:2 are in none of them. -/
theorem decodeRecord_reg1_fields (m : Image) :
    (decodeRecord m).packet.toNat = m.reg1.toNat / 64 ∧ (decodeRecord m).noiseEn.toNat = m.reg1.toNat / 32 % 2 ∧
    (decodeRecord m).power.toNat = m.reg1.toNat % 4 := by
  have hbyte := m.reg1.isLt
  simp only [decodeRecord, toNat_extractLsb'_eq_div_mod, toNat_getLsbD]
  omega

/-- The fields that share byte 6 (`reg3`). -/
theorem decodeRecord_reg3_fields (m : Image) :
    (decodeRecord m).rssiEn.toNat = m.reg3.toNat / 128 ∧ (decodeRecord m).fixed.toNat = m.reg3.toNat / 64 % 2 ∧
    (decodeRecord m).repeater.toNat = m.reg3.toNat / 32 % 2 ∧ (decodeRecord m).lbt.toNat = m.reg3.toNat / 16 % 2 ∧
    (decodeRecord m).wor.toNat = m.reg3.toNat / 8 % 2 ∧ (decodeRecord m).worCycle.toNat = m.reg3.toNat % 8 := by
  have hbyte := m.reg3.isLt
  simp only [decodeRecord, toNat_extractLsb'_eq_div_mod, toNat_getLsbD]
  omega

/-! ### DECODE after ENCODE and ENCODE after DECODE (R175) -/

/-- Two records are equal when their fields are, those that share a byte of the image compared as numbers. -/
theorem record_eq_of_toNat {q r : Record} (haddr : q.addr = r.addr) (hnetid : q.netid = r.netid)
    (hchannel : q.channel = r.channel) (hkey : q.key = r.key)
    (hreg0 : q.baud.toNat = r.baud.toNat ∧ q.parity.toNat = r.parity.toNat ∧ q.air.toNat = r.air.toNat)
    (hreg1 : q.packet.toNat = r.packet.toNat ∧ q.noiseEn.toNat = r.noiseEn.toNat ∧
      q.power.toNat = r.power.toNat)
    (hreg3 : q.rssiEn.toNat = r.rssiEn.toNat ∧ q.fixed.toNat = r.fixed.toNat ∧
      q.repeater.toNat = r.repeater.toNat ∧ q.lbt.toNat = r.lbt.toNat ∧ q.wor.toNat = r.wor.toNat ∧
      q.worCycle.toNat = r.worCycle.toNat) : q = r := by
  have hflag : ∀ b c : Bool, b.toNat = c.toNat ↔ b = c := by decide
  cases q
  cases r
  simp only [BitVec.toNat_inj, hflag] at haddr hnetid hchannel hkey hreg0 hreg1 hreg3
  obtain ⟨rfl, rfl, rfl⟩ := hreg0
  obtain ⟨rfl, rfl, rfl⟩ := hreg1
  obtain ⟨rfl, rfl, rfl, rfl, rfl, rfl⟩ := hreg3
  subst haddr hnetid hchannel hkey
  rfl

theorem decodeRecord_encodeRecord (r : Record) : decodeRecord (encodeRecord r) = r := by
  have hreg0 := decodeRecord_reg0_fields (encodeRecord r)
  have hreg1 := decodeRecord_reg1_fields (encodeRecord r)
  have hreg3 := decodeRecord_reg3_fields (encodeRecord r)
  rw [encodeRecord_reg0_toNat] at hreg0
  rw [encodeRecord_reg1_toNat] at hreg1
  rw [encodeRecord_reg3_toNat] at hreg3
  have hnoise := r.noiseEn.toNat_lt
  have hfixed := r.fixed.toNat_lt
  have hrepeater := r.repeater.toNat_lt
  have hlbt := r.lbt.toNat_lt
  have hwor := r.wor.toNat_lt
  exact record_eq_of_toNat (half_halfHi_halfLo r.addr) rfl rfl (half_halfHi_halfLo r.key) (by omega) (by omega)
    (by omega)

/-- The mask 0xE3 clears bits 4:2. -/
theorem toNat_and_E3 : ∀ b : Byte, (b &&& 0xE3).toNat = 32 * (b.toNat / 32) + b.toNat % 4 := by decide

theorem and_E3_eq_self_iff (b : Byte) : b &&& 0xE3 = b ↔ b.extractLsb' 2 3 = 0 := by
  have hzero : (0 : BitVec 3).toNat = 0 := rfl
  rw [← BitVec.toNat_inj, ← BitVec.toNat_inj, toNat_and_E3, toNat_extractLsb'_eq_div_mod, hzero]
  omega

theorem encodeRecord_decodeRecord (m : Image) :
    encodeRecord (decodeRecord m) = { m with reg1 := m.reg1 &&& 0xE3 } := by
  obtain ⟨hbaud, hparity, hair⟩ := decodeRecord_reg0_fields m
  obtain ⟨hpacket, hnoise, hpower⟩ := decodeRecord_reg1_fields m
  obtain ⟨hrssi, hfixed, hrepeater, hlbt, hwor, hcycle⟩ := decodeRecord_reg3_fields m
  have hreg0 : (encodeRecord (decodeRecord m)).reg0 = m.reg0 := by
    rw [← BitVec.toNat_inj, encodeRecord_reg0_toNat]
    omega
  have hreg1 : (encodeRecord (decodeRecord m)).reg1 = m.reg1 &&& 0xE3 := by
    rw [← BitVec.toNat_inj, encodeRecord_reg1_toNat, toNat_and_E3]
    omega
  have hreg3 : (encodeRecord (decodeRecord m)).reg3 = m.reg3 := by
    rw [← BitVec.toNat_inj, encodeRecord_reg3_toNat]
    omega
  rw [encodeRecord, Image.mk.injEq]
  exact ⟨halfHi_half _ _, halfLo_half _ _, rfl, hreg0, hreg1, rfl, hreg3, halfHi_half _ _, halfLo_half _ _⟩

theorem encodeRecord_decodeRecord_eq_self_iff (m : Image) :
    encodeRecord (decodeRecord m) = m ↔ m.reg1.extractLsb' 2 3 = 0 := by
  rw [encodeRecord_decodeRecord, ← and_E3_eq_self_iff]
  exact ⟨congrArg Image.reg1, fun h => by rw [h]⟩

end Sys2Proof.Machine

/-!
PROOFS. Record access (spec/41_register_image.md R179 to R202): a field's value as the number of its operand, and what
a setter leaves for a legal and for an illegal operand.
-/

namespace Sys2Proof.Machine

/-! ### The value of a field -/

theorem fieldApply_baud (c : Byte) (r : Record) :
    fieldApply (.baud c) r = { r with baud := BitVec.ofNat 3 c.toNat } := by rw [BitVec.ofNat_toNat]; rfl

theorem fieldApply_air (c : Byte) (r : Record) :
    fieldApply (.air c) r = { r with air := BitVec.ofNat 3 c.toNat } := by rw [BitVec.ofNat_toNat]; rfl

theorem fieldApply_parity (c : Byte) (r : Record) :
    fieldApply (.parity c) r = { r with parity := BitVec.ofNat 2 c.toNat } := by rw [BitVec.ofNat_toNat]; rfl

theorem fieldApply_packet (c : Byte) (r : Record) :
    fieldApply (.packet c) r = { r with packet := BitVec.ofNat 2 c.toNat } := by rw [BitVec.ofNat_toNat]; rfl

theorem fieldApply_power (c : Byte) (r : Record) :
    fieldApply (.power c) r = { r with power := BitVec.ofNat 2 c.toNat } := by rw [BitVec.ofNat_toNat]; rfl

theorem fieldApply_worCycle (c : Byte) (r : Record) :
    fieldApply (.worCycle c) r = { r with worCycle := BitVec.ofNat 3 c.toNat } := by rw [BitVec.ofNat_toNat]; rfl

/-- A flag is set by the operand 1 and cleared by 0 (R189 to R194). -/
theorem getLsbD_zero_eq_decide {b : Byte} (h : b.toNat ≤ 1) : b.getLsbD 0 = decide (b = 1) := by
  have hvalues : b = 0 ∨ b = 1 := by
    rw [← BitVec.toNat_inj, ← BitVec.toNat_inj]
    exact Nat.le_one_iff_eq_zero_or_eq_one.1 h
  rcases hvalues with rfl | rfl <;> rfl

theorem fieldApply_noiseEn {b : Byte} (h : b.toNat ≤ 1) (r : Record) :
    fieldApply (.noiseEn b) r = { r with noiseEn := decide (b = 1) } := by rw [fieldApply, getLsbD_zero_eq_decide h]

theorem fieldApply_rssiEn {b : Byte} (h : b.toNat ≤ 1) (r : Record) :
    fieldApply (.rssiEn b) r = { r with rssiEn := decide (b = 1) } := by rw [fieldApply, getLsbD_zero_eq_decide h]

theorem fieldApply_fixed {b : Byte} (h : b.toNat ≤ 1) (r : Record) :
    fieldApply (.fixed b) r = { r with fixed := decide (b = 1) } := by rw [fieldApply, getLsbD_zero_eq_decide h]

theorem fieldApply_repeater {b : Byte} (h : b.toNat ≤ 1) (r : Record) :
    fieldApply (.repeater b) r = { r with repeater := decide (b = 1) } := by rw [fieldApply, getLsbD_zero_eq_decide h]

theorem fieldApply_lbt {b : Byte} (h : b.toNat ≤ 1) (r : Record) :
    fieldApply (.lbt b) r = { r with lbt := decide (b = 1) } := by rw [fieldApply, getLsbD_zero_eq_decide h]

theorem fieldApply_wor {b : Byte} (h : b.toNat ≤ 1) (r : Record) :
    fieldApply (.wor b) r = { r with wor := decide (b = 1) } := by rw [fieldApply, getLsbD_zero_eq_decide h]

/-! ### The operations of one step -/

theorem exec_getRecord (s : State) :
    exec .getRecord s = .next (answered
      (imageBytes (encodeRecord s.record) ++ flagByte (pidValid s) :: pidResult s)
      { s with frees := s.frees + 7 }) := rfl

theorem setField_legal {i : Instr} {w : FieldWrite} {s : State} (hset : exec i s = setField w s)
    (h : fieldLegal w = true) : exec i s = .next (answered [] { s with record := fieldApply w s.record }) := by
  rw [hset, setField, checkedStep, h]; rfl

/-- A setter whose operand is legal up to `n` (R122): it makes `r` the record, or refuses the operand. -/
theorem setField_upTo {i : Instr} {w : FieldWrite} {s : State} {r : Record} {v : Byte} (n : Nat)
    (hset : exec i s = setField w s) (hcheck : fieldLegal w = decide (v.toNat < n + 1))
    (hvalue : v.toNat ≤ n → fieldApply w s.record = r) :
    (v.toNat ≤ n → exec i s = .next (answered [] { s with record := r })) ∧
    (n < v.toNat → exec i s = .next (faulted 1 s)) := by
  refine ⟨fun h => ?legal, fun h => ?illegal⟩
  case legal => rw [setField_legal hset (hcheck.trans (decide_eq_true (Nat.lt_succ_of_le h))), hvalue h]
  case illegal => exact setField_illegal hset (hcheck.trans (decide_eq_false (Nat.not_lt.2 h)))

end Sys2Proof.Machine

/-!
PROOFS. Runs of the transport operations up to a step that ends them early: a run whose steps complete up to one that
raises a fault, and the closing transition without native codes (R223 step 1, R342) of `REG_WRITE`, `REG_READ` and
`EEPROM_READ`.
-/

namespace Sys2Proof.Machine

/-! ### A run that ends in a fault -/

/-- An operation whose steps complete stands at the step after them. -/
theorem runExec_reaches {i : Instr} {block post : StepList} {loc : Loc} {m : Micro} {s t : State}
    (hl : Listed i) (hs : remaining (stepListOf i) s.phase = block ++ (loc, m) :: post)
    (ht : completes (block.map Prod.snd) s = some t) :
    ∃ ph, runExec i block.length s = .next (t.withPhase ph) ∧
      remaining (stepListOf i) ph = (loc, m) :: post := by
  induction block generalizing s t with
  | nil =>
    cases ht
    exact ⟨_, rfl, hs⟩
  | cons e block ih =>
    obtain ⟨u, hm, hu⟩ := completes_cons_iff.1 ht
    obtain ⟨d, rest, hrest⟩ : ∃ d rest, block ++ (loc, m) :: post = d :: rest :=
      List.exists_cons_of_ne_nil (by simp)
    rw [List.cons_append, hrest] at hs
    have hstep : exec i s = .next (u.withPhase (.run i d.1)) := by
      rw [hl.exec_eq, runSteps_eq hs, hm]; rfl
    have hsuffix : d :: rest <:+ stepListOf i :=
      (List.suffix_cons e _).trans (hs ▸ remaining_suffix (stepListOf i) s.phase)
    have hnext : remaining (stepListOf i) (u.withPhase (.run i d.1)).phase = block ++ (loc, m) :: post :=
      (fromLoc_suffix_head hl.places_nodup hsuffix).trans hrest.symm
    obtain ⟨ph, hrun, hph⟩ := ih hnext (completes_withPhase hu _)
    exact ⟨ph, (runExec_succ hstep _).trans hrun, hph⟩

/-- An operation whose steps complete up to one that raises a fault ends there with the fault's code, and what the
steps did stays (R340, R353). -/
theorem runExec_of_raise {i : Instr} {block post : StepList} {loc : Loc} {m : Micro} {f : FaultClass}
    {s t u : State} (hl : Listed i) (hphase : s.phase = .idle) (hs : stepListOf i = block ++ (loc, m) :: post)
    (ht : completes (block.map Prod.snd) s = some t) (hm : runMicro m t = .raise f u) :
    runExec i (block.length + 1) s = .next (faulted (faultCode f) u) := by
  obtain ⟨ph, hrun, hph⟩ := runExec_reaches hl (by rw [hphase]; exact hs) ht
  have hraise : runMicro m (t.withPhase ph) = .raise f (u.withPhase ph) := by
    rw [runMicro_withPhase, hm]; rfl
  have hlast : exec i (t.withPhase ph) = .next (faulted (faultCode f) u) := by
    rw [hl.exec_eq, runSteps_eq hph, hraise]; rfl
  rw [runExec_add 1 hrun]
  exact runExec_succ hlast 0

/-! ### Step 1 of a transition without native codes (R223, R342) -/

theorem transCheckStep_miss {m : Mode} {s : State} (ht : m.transparent = true) (hmiss : ¬ hasNative s.record) :
    transCheckStep m s = .raise .invalidArgument s := by
  have hnone : codeToNative codec.baud (s.record.baud.setWidth 8) = notFound ∨
      codeToNative codec.parity (s.record.parity.setWidth 8) = notFound := by
    simpa only [hasNative, not_and_or, not_not] using hmiss
  rw [transCheckStep, if_pos ht, if_pos hnone]

/-- An operation that completes up to its closing transition and has no native codes there ends with InvalidArgument
(R256, R262, R274, R276). -/
theorem runExec_codecMiss {i : Instr} {block post : StepList} {place : Option Nat → Loc} {s t : State}
    (hl : Listed i) (hphase : s.phase = .idle) (hs : stepListOf i = block ++ (transitionSteps place .normal ++ post))
    (ht : completes (block.map Prod.snd) s = some t) (hmiss : ¬ hasNative t.record) :
    runExec i (block.length + 1) s = .next (faulted 1 t) :=
  runExec_of_raise hl hphase hs ht (f := .invalidArgument) (transCheckStep_miss rfl hmiss)

/-! ### `REG_WRITE`, `REG_READ` and `EEPROM_READ` without native codes for the closing transition -/

section

variable {s : State} {reply : List Byte} {busy : List BusyAnswer} {acks : List AckAnswer}
  {counts : List CountAnswer} {reads : List ReadAnswer}

theorem runExec_regWrite_codecMiss {addr : Byte} {data : List Byte} (hphase : s.phase = .idle)
    (hmiss : ¬ hasNative s.record) (hspan : spanOk addr data.length = true) (hbusy : s.busyIn = .lvl true :: busy)
    (hack : s.ackIn = List.replicate 5 .ok ++ acks) (hcount : s.countIn = .cnt (3 + data.length) :: counts)
    (hread : s.readIn = .bytes reply :: reads) (hlen : reply.length = 3 + data.length)
    (hecho : reply.drop 1 = (frameW addr data).drop 1) :
    runExec (.regWrite addr data) 16 s = .next (faulted 1 (withInputs busy acks counts reads
      (afterWriteSent (frameW addr data) reply s))) := by
  obtain ⟨hsome, hrange⟩ := spanOk_iff.1 hspan
  have hframe := frameW_length addr data
  have hmax : (frameW addr data).length ≤ frameMax := by simp only [frameMax]; omega
  rw [← hframe] at hcount hlen
  have hsent := completes_append
    (completes_checksAndConfig (decide_eq_true hsome) hspan hbusy (acks := .ok :: acks) hack)
    (completes_writeExchange topLoc (load_go _ hmax) hmax rfl hcount hread hlen hecho)
  exact runExec_codecMiss (.regWrite addr data) hphase rfl hsent hmiss

theorem runExec_regRead_codecMiss {addr len : Byte} (hphase : s.phase = .idle) (hmiss : ¬ hasNative s.record)
    (hspan : spanOk addr len.toNat = true) (hbusy : s.busyIn = .lvl true :: busy)
    (hack : s.ackIn = List.replicate 4 .ok ++ acks) (hcount : s.countIn = .cnt 3 :: counts)
    (hread : s.readIn = .bytes reply :: reads) (hlen : reply.length = 3 + len.toNat) :
    runExec (.regRead addr len) 14 s = .next (faulted 1 (withInputs busy acks counts reads
      (afterReadSent (frameR addr len) reply len.toNat s))) := by
  obtain ⟨hsome, hrange⟩ := spanOk_iff.1 hspan
  have hframe : (frameR addr len).length ≤ frameMax := (by decide : 3 ≤ 12)
  have hmax : reply.length ≤ frameMax := by simp only [frameMax]; omega
  have hsent := completes_append (completes_checksAndConfig (decide_eq_true hsome) hspan hbusy hack)
    (completes_readExchange topLoc hframe hcount hread hlen hmax)
  exact runExec_codecMiss (.regRead addr len) hphase rfl hsent hmiss

/-- The first of the two reads of `EEPROM_READ` (R276 step 1). -/
theorem runExec_eepromRead_codecMiss (hphase : s.phase = .idle) (hmiss : ¬ hasNative s.record)
    (hbusy : s.busyIn = .lvl true :: busy) (hack : s.ackIn = List.replicate 4 .ok ++ acks)
    (hcount : s.countIn = .cnt 3 :: counts) (hread : s.readIn = .bytes reply :: reads) (hlen : reply.length = 3 + 9) :
    runExec .eepromRead 12 s = .next (faulted 1 (withInputs busy acks counts reads
      (afterReadSent (frameR 0x00 9) reply 9 s))) := by
  have hframe : (frameR 0x00 9).length ≤ frameMax := by decide
  have hsent := completes_append
    (completes_transition (fun sub => ⟨1, [3], sub⟩) (transCheckStep_control (m := .config) s rfl) hbusy hack)
    (completes_readExchange (fun n sub => ⟨1, [n], sub⟩) hframe hcount hread hlen (Nat.le_of_eq hlen))
  exact runExec_codecMiss .eepromRead hphase rfl hsent hmiss

end

end Sys2Proof.Machine

/-!
PROOFS. Writing the whole record (spec/43_register_transport.md R274, spec/41_register_image.md R196): the exchange of
`EEPROM_WRITE` and of the set-and-commits with a right and with a wrong echo, the commit point, and what follows it.
-/

namespace Sys2Proof.Machine

section

variable {s : State} {r : Record} {reply : List Byte} {busy : List BusyAnswer} {acks : List AckAnswer}
  {counts : List CountAnswer} {reads : List ReadAnswer}

/-! ### The exchange -/

/-- The coming answers to one write of the image: BUSY ready, every event up to the echo acknowledged, the frame sent
whole, and `reply` as long as the frame; behind them stand those to later events. -/
structure WriteAnswered (reply : List Byte) (busy : List BusyAnswer) (acks : List AckAnswer)
    (counts : List CountAnswer) (reads : List ReadAnswer) (s : State) : Prop where
  busy : s.busyIn = .lvl true :: busy
  acks : s.ackIn = List.replicate 5 .ok ++ acks
  count : s.countIn = .cnt 12 :: counts
  read : s.readIn = .bytes reply :: reads
  length : reply.length = 12

/-- Staging and ENCODE take no answer. -/
theorem WriteAnswered.staged (h : WriteAnswered reply busy acks counts reads s) (r : Record) (m : Image) :
    WriteAnswered reply busy acks counts reads { s with staged := r, img := m } :=
  ⟨h.busy, h.acks, h.count, h.read, h.length⟩

/-- The frame that writes the image of a record (R274 step 2). -/
def recordFrame (r : Record) : List Byte := frameW 0x00 (imageBytes (encodeRecord r))

/-- Steps 3 to 8 of `REG_WRITE` for the kept image, up to the echo check (R256, R274 step 2). -/
def imageSent (place : Nat → Option Nat → Loc) : StepList :=
  transitionSteps (place 3) .config ++ [
    (place 4 none, .loadImage), (place 5 none, .send), (place 6 none, .flush), (place 7 none, .recvEcho),
    (place 8 none, .nop)]

theorem writeBody_eq_imageSent (place : Nat → Option Nat → Loc) :
    writeBody place .loadImage = imageSent place ++ [(place 9 none, .checkEcho)] := rfl

theorem loadImage_go (h : s.img = encodeRecord r) :
    runMicro .loadImage s = .go { s with txf := recordFrame r } := by
  rw [runMicro, h]; rfl

theorem checkEcho_raise (hlen : s.rxf.length = s.txf.length) (h : s.rxf.drop 1 ≠ s.txf.drop 1) :
    runMicro .checkEcho s = .raise .protocolFault s := by
  rw [runMicro, checkEchoStep, ← hlen, List.take_length, if_neg h]

theorem completes_imageSent (place : Nat → Option Nat → Loc) (himg : s.img = encodeRecord r)
    (h : WriteAnswered reply busy acks counts reads s) :
    completes ((imageSent place).map Prod.snd) s =
      some (withInputs busy acks counts reads (afterWriteSent (recordFrame r) reply s)) := by
  refine completes_append (completes_transition (place 3) (transCheckStep_control (m := .config) s rfl) h.busy
    (acks := .ok :: acks) h.acks) ?_
  refine completes_cons (loadImage_go himg) ?_
  refine completes_cons (send_go h.count) ?_
  refine completes_cons (flush_go rfl) ?_
  refine completes_cons (recv_go h.read h.length (Nat.le_of_eq h.length)) ?_
  exact completes_cons rfl (completes_nil _)

/-- The echo may differ from the frame in byte 0 only (R257). -/
theorem completes_imageEchoed (place : Nat → Option Nat → Loc) (himg : s.img = encodeRecord r)
    (h : WriteAnswered reply busy acks counts reads s) (hecho : reply.drop 1 = (recordFrame r).drop 1) :
    completes ((writeBody place .loadImage).map Prod.snd) s =
      some (withInputs busy acks counts reads (afterWriteSent (recordFrame r) reply s)) := by
  rw [writeBody_eq_imageSent]
  exact completes_append (completes_imageSent place himg h)
    (completes_cons (checkEcho_go h.length hecho) (completes_nil _))

/-! ### `EEPROM_WRITE` -/

theorem runExec_eepromWrite_codecMiss (hphase : s.phase = .idle) (hmiss : ¬ hasNative s.record)
    (h : WriteAnswered reply busy acks counts reads s) (hecho : reply.drop 1 = (recordFrame s.record).drop 1) :
    runExec .eepromWrite 16 s = .next (faulted 1 (withInputs busy acks counts reads
      { afterWriteSent (recordFrame s.record) reply s with img := encodeRecord s.record })) := by
  have hwritten := completes_imageEchoed (fun n sub => ⟨2, [n], sub⟩) rfl
    (h.staged s.staged (encodeRecord s.record)) hecho
  have hkept := completes_append (p := [(topLoc 1 none, .encodeImage false)]) (s := s) rfl
    (completes_append hwritten (q := [(topLoc 3 none, .commit false)]) rfl)
  exact runExec_codecMiss .eepromWrite hphase rfl hkept hmiss

/-! ### The set-and-commits -/

/-- Steps 1 and 2 of a set-and-commit and step 1 of its `EEPROM_WRITE` (R196, R274). -/
def stagingSteps (w : FieldWrite) : StepList := [
  (topLoc 1 none, .require (fieldLegal w) .invalidArgument),
  (topLoc 2 none, .stage w),
  (⟨3, [1], none⟩, .encodeImage true)]

/-- What they leave for the staged record `r`. -/
def afterStaging (r : Record) (s : State) : State := { s with staged := r, img := encodeRecord r }

theorem completes_stagingSteps {w : FieldWrite} (hlegal : fieldLegal w = true) (s : State) :
    completes ((stagingSteps w).map Prod.snd) s = some (afterStaging (fieldApply w s.record) s) := by
  have hcheck : runMicro (.require (fieldLegal w) .invalidArgument) s = .go s := by rw [runMicro, hlegal]; rfl
  exact completes_cons hcheck rfl

/-- Where the steps of the write exchange stand in a set-and-commit. -/
def commitPlace (n : Nat) (sub : Option Nat) : Loc := ⟨3, [2, n], sub⟩

/-- The steps of a set-and-commit up to its commit point. -/
def stepsToCommit (w : FieldWrite) : StepList :=
  stagingSteps w ++ (writeBody commitPlace .loadImage ++ [(⟨3, [3], none⟩, .commit true)])

theorem commitInstr_steps_around_echoCheck (w : FieldWrite) : ∃ post, stepListOf (commitInstr w) =
    (stagingSteps w ++ imageSent commitPlace) ++ (commitPlace 9 none, .checkEcho) :: post := by
  rw [stepListOf_commitInstr]
  exact ⟨_, rfl⟩

theorem commitInstr_steps_around_commit (w : FieldWrite) : stepListOf (commitInstr w) = stepsToCommit w ++
    (transitionSteps (fun k => ⟨3, [4], k⟩) .normal ++ [(⟨3, [5], none⟩, .done .nothing)]) := by
  rw [stepListOf_commitInstr]
  rfl

/-- With a right echo the image of the new record is written and that record is the record. -/
theorem completes_stepsToCommit {w : FieldWrite} (hlegal : fieldLegal w = true) (hr : fieldApply w s.record = r)
    (h : WriteAnswered reply busy acks counts reads s) (hecho : reply.drop 1 = (recordFrame r).drop 1) :
    completes ((stepsToCommit w).map Prod.snd) s = some (withInputs busy acks counts reads
      { afterWriteSent (recordFrame r) reply (afterStaging r s) with record := r }) := by
  subst hr
  have hstaged : WriteAnswered reply busy acks counts reads (afterStaging (fieldApply w s.record) s) := h.staged _ _
  have hwritten := completes_imageEchoed commitPlace rfl hstaged hecho
  exact completes_append (completes_stagingSteps hlegal s) (completes_append hwritten rfl)

/-- After the commit point only the transition to Normal and `done` follow (R274). -/
theorem commitInstr_commitCompletes (w : FieldWrite) (hlegal : fieldLegal w = true)
    (hr : fieldApply w s.record = r) : CommitCompletes (commitInstr w) r s := by
  intro busy acks counts reads header hphase hnative hbusy hack hcount hread
  have hl : Listed (commitInstr w) := .commit w
  have hcommitted := completes_stepsToCommit hlegal hr
    (acks := List.replicate 4 .ok ++ acks) ⟨hbusy, hack, hcount, hread, rfl⟩ rfl
  have hrun := completes_append hcommitted
    (completes_transition (fun k => ⟨3, [4], k⟩) (transCheckStep_native (m := .normal) rfl hnative) rfl rfl)
  have hsteps : remaining (stepListOf (commitInstr w)) s.phase =
      (stepsToCommit w ++ transitionSteps (fun k => ⟨3, [4], k⟩) .normal) ++
        [(⟨3, [5], none⟩, .done .nothing)] := by
    rw [hphase, List.append_assoc]
    exact commitInstr_steps_around_commit w
  exact runExec_of_completes hl.exec_eq hl.places_nodup hsteps hrun

/-- The record is already the new one when its codes miss (R207). -/
theorem runExec_commitInstr_codecMiss {w : FieldWrite} (hphase : s.phase = .idle) (hlegal : fieldLegal w = true)
    (hr : fieldApply w s.record = r) (hmiss : ¬ hasNative r) (h : WriteAnswered reply busy acks counts reads s)
    (hecho : reply.drop 1 = (recordFrame r).drop 1) :
    runExec (commitInstr w) 18 s = .next (faulted 1 (withInputs busy acks counts reads
      { afterWriteSent (recordFrame r) reply (afterStaging r s) with record := r })) :=
  runExec_codecMiss (.commit w) hphase (commitInstr_steps_around_commit w)
    (completes_stepsToCommit hlegal hr h hecho) hmiss

/-- A wrong echo ends the operation before the commit point (R257, R353). -/
theorem runExec_commitInstr_wrongEcho {w : FieldWrite} (hphase : s.phase = .idle) (hlegal : fieldLegal w = true)
    (hr : fieldApply w s.record = r) (h : WriteAnswered reply busy acks counts reads s)
    (hecho : reply.drop 1 ≠ (recordFrame r).drop 1) :
    runExec (commitInstr w) 16 s = .next (faulted 4 (withInputs busy acks counts reads
      (afterWriteSent (recordFrame r) reply (afterStaging r s)))) := by
  subst hr
  obtain ⟨post, hsteps⟩ := commitInstr_steps_around_echoCheck w
  have hsent := completes_append (completes_stagingSteps hlegal s)
    (completes_imageSent commitPlace rfl (h.staged _ _))
  exact runExec_of_raise (.commit w) hphase hsteps hsent (checkEcho_raise h.length hecho)

end

end Sys2Proof.Machine

/-!
PROOFS. A set-and-commit writes the record nowhere but at its commit point (R196, R353).
-/

namespace Sys2Proof.Machine

theorem stepListOf_commitInstr_ne_nil (w : FieldWrite) : stepListOf (commitInstr w) ≠ [] := by
  rw [stepListOf_commitInstr]
  exact List.cons_ne_nil _ _

theorem commitInstr_ne_eepromRead (w : FieldWrite) : commitInstr w ≠ .eepromRead := by cases w <;> nofun

theorem commitInstr_not_writesRecordAtOnce (w : FieldWrite) : ¬ writesRecordAtOnce (commitInstr w) := by
  cases w <;> simp [writesRecordAtOnce, commitInstr]

/-- A step of a set-and-commit that changes the record stands where a running operation writes it. -/
theorem commitInstr_writesRecordHere {w : FieldWrite} {s t : State} (h : exec (commitInstr w) s = .next t)
    (hne : t.record ≠ s.record) : writesRecordHere (commitInstr w) (placeOf s.phase) := by
  rcases exec_cases h with ⟨hnil, -⟩ | ⟨loc, m, rest, hm⟩
  · exact absurd hnil (stepListOf_commitInstr_ne_nil w)
  · obtain ⟨i, hi, hwrites⟩ := hm.hasOnlyItsWriters.record hne
    cases hi
    exact hwrites.resolve_left (commitInstr_not_writesRecordAtOnce w)

end Sys2Proof.Machine

/-!
PROOFS. The statements of spec/41_register_image.md.
-/

namespace Sys2Proof.Proofs

open Sys2Proof Sys2Proof.Machine

/-- Settles O10: every field is read from the bits it was written to, and bits 4:2 of byte 4 are no field's. -/
theorem imageRoundTrip : Obligations.ImageRoundTrip :=
  ⟨decodeRecord_encodeRecord, encodeRecord_decodeRecord, encodeRecord_decodeRecord_eq_self_iff⟩

/-- Settles O11: a byte made of fields is the sum of the fields, each times the weight of its lowest bit. -/
theorem imageLayout : Obligations.ImageLayout := by
  intro r
  have haddr : half (encodeRecord r).addh (encodeRecord r).addl = r.addr := half_halfHi_halfLo r.addr
  have hkey : half (encodeRecord r).keyh (encodeRecord r).keyl = r.key := half_halfHi_halfLo r.key
  rw [← toNat_half, haddr, ← toNat_half, hkey]
  exact ⟨rfl, rfl, encodeRecord_reg0_toNat r, encodeRecord_reg1_toNat r, rfl, encodeRecord_reg3_toNat r, rfl⟩

/-- Settles O12: the seven bytes are the identification block, or free bytes without one. -/
theorem getRecordResult : Obligations.GetRecordResult := by
  intro s
  refine ⟨fun p hp => ?valid, fun hp => ?notValid⟩
  case valid | notValid => rw [exec_getRecord, pidValid, pidResult, hp]; rfl

/-- Settles O13: the new record is the decoded image. -/
theorem setRecordResult : Obligations.SetRecordResult := by
  intro m s
  obtain ⟨hbaud, hparity, hair⟩ := decodeRecord_reg0_fields m
  obtain ⟨hpacket, hnoise, hpower⟩ := decodeRecord_reg1_fields m
  obtain ⟨hrssi, hfixed, hrepeater, hlbt, hwor, hcycle⟩ := decodeRecord_reg3_fields m
  exact ⟨decodeRecord m, rfl, toNat_half _ _, rfl, hbaud, hparity, hair, hpacket, hnoise, hpower, rfl, hrssi,
    hfixed, hrepeater, hlbt, hwor, hcycle, toNat_half _ _⟩

/-- Settles O14: every operand is legal, so the setter writes its field. -/
theorem wideSettersWriteTheirField : Obligations.WideSettersWriteTheirField := by
  intro h b s
  have himage : (imageBytes (encodeRecord { s.record with addr := 0x1234 })).take 2 = [0x12, 0x34] :=
    (by decide : [halfHi 0x1234, halfLo 0x1234] = [0x12, 0x34])
  exact ⟨setField_legal (w := .addr h) rfl rfl, setField_legal (w := .netid b) rfl rfl,
    setField_legal (w := .channel b) rfl rfl, setField_legal (w := .key h) rfl rfl, by decide, himage, by decide⟩

/-- Settles O15: the operand check compares with the field's width, and a legal code is the field's value. -/
theorem codeSettersCheckAndWrite : Obligations.CodeSettersCheckAndWrite := by
  intro c s
  obtain ⟨hbaud, hbaud'⟩ := setField_upTo (i := .setBaud c) 7 rfl rfl fun _ => fieldApply_baud c _
  obtain ⟨hair, hair'⟩ := setField_upTo (i := .setAir c) 7 rfl rfl fun _ => fieldApply_air c _
  obtain ⟨hparity, hparity'⟩ := setField_upTo (i := .setParity c) 3 rfl rfl fun _ => fieldApply_parity c _
  obtain ⟨hpacket, hpacket'⟩ := setField_upTo (i := .setPacket c) 3 rfl rfl fun _ => fieldApply_packet c _
  obtain ⟨hpower, hpower'⟩ := setField_upTo (i := .setPower c) 3 rfl rfl fun _ => fieldApply_power c _
  obtain ⟨hcycle, hcycle'⟩ := setField_upTo (i := .setWorCycle c) 7 rfl rfl fun _ => fieldApply_worCycle c _
  exact ⟨hbaud, hbaud', hair, hair', hparity, hparity', hpacket, hpacket', hpower, hpower', hcycle, hcycle',
    by decide⟩

/-- Settles O16: the operand check compares with 2, and a legal operand is the flag. -/
theorem flagSettersCheckAndWrite : Obligations.FlagSettersCheckAndWrite := by
  intro b s
  obtain ⟨hnoise, hnoise'⟩ := setField_upTo (i := .setNoiseEn b) 1 rfl rfl fun h => fieldApply_noiseEn h _
  obtain ⟨hrssi, hrssi'⟩ := setField_upTo (i := .setRssiEn b) 1 rfl rfl fun h => fieldApply_rssiEn h _
  obtain ⟨hfixed, hfixed'⟩ := setField_upTo (i := .setFixed b) 1 rfl rfl fun h => fieldApply_fixed h _
  obtain ⟨hrepeater, hrepeater'⟩ := setField_upTo (i := .setRepeater b) 1 rfl rfl fun h => fieldApply_repeater h _
  obtain ⟨hlbt, hlbt'⟩ := setField_upTo (i := .setLbt b) 1 rfl rfl fun h => fieldApply_lbt h _
  obtain ⟨hwor, hwor'⟩ := setField_upTo (i := .setWor b) 1 rfl rfl fun h => fieldApply_wor h _
  exact ⟨hnoise, hnoise', hrssi, hrssi', hfixed, hfixed', hrepeater, hrepeater', hlbt, hlbt', hwor, hwor',
    by decide⟩

/-- Settles O17: every legal operand gives a record that `commitInstr_commitCompletes` writes. -/
theorem setAndCommitCompletes : Obligations.SetAndCommitCompletes := by
  intro h b s
  have hlegal : ∀ {n : Nat}, b.toNat ≤ n → decide (b.toNat < n + 1) = true :=
    fun hb => decide_eq_true (Nat.lt_succ_of_le hb)
  refine ⟨?addr, ?netid, ?baud, ?air, ?parity, ?packet, ?power, ?channel, ?key, ?noiseEn, ?rssiEn, ?fixed,
    ?repeater, ?lbt, ?wor, ?worCycle⟩
  case addr => exact commitInstr_commitCompletes (.addr h) rfl rfl
  case netid => exact commitInstr_commitCompletes (.netid b) rfl rfl
  case baud => exact fun hb => commitInstr_commitCompletes (.baud b) (hlegal hb) (fieldApply_baud b _)
  case air => exact fun hb => commitInstr_commitCompletes (.air b) (hlegal hb) (fieldApply_air b _)
  case parity => exact fun hb => commitInstr_commitCompletes (.parity b) (hlegal hb) (fieldApply_parity b _)
  case packet => exact fun hb => commitInstr_commitCompletes (.packet b) (hlegal hb) (fieldApply_packet b _)
  case power => exact fun hb => commitInstr_commitCompletes (.power b) (hlegal hb) (fieldApply_power b _)
  case channel => exact commitInstr_commitCompletes (.channel b) rfl rfl
  case key => exact commitInstr_commitCompletes (.key h) rfl rfl
  case noiseEn => exact fun hb => commitInstr_commitCompletes (.noiseEn b) (hlegal hb) (fieldApply_noiseEn hb _)
  case rssiEn => exact fun hb => commitInstr_commitCompletes (.rssiEn b) (hlegal hb) (fieldApply_rssiEn hb _)
  case fixed => exact fun hb => commitInstr_commitCompletes (.fixed b) (hlegal hb) (fieldApply_fixed hb _)
  case repeater => exact fun hb => commitInstr_commitCompletes (.repeater b) (hlegal hb) (fieldApply_repeater hb _)
  case lbt => exact fun hb => commitInstr_commitCompletes (.lbt b) (hlegal hb) (fieldApply_lbt hb _)
  case wor => exact fun hb => commitInstr_commitCompletes (.wor b) (hlegal hb) (fieldApply_wor hb _)
  case worCycle => exact fun hb => commitInstr_commitCompletes (.worCycle b) (hlegal hb) (fieldApply_worCycle b _)

/-- Settles O18: the staging step, the commit point and the last step stand in the list at the named places. -/
theorem commitPointWritesStaged : Obligations.CommitPointWritesStaged := by
  intro w op s
  refine ⟨fun hp => ?stage, fun hp => ?commit, fun hp => ?last⟩
  case stage =>
    exact exec_at_go (suffix_of_drop 1 (by rw [stepListOf_commitInstr]; rfl)) hp (m := .stage w) rfl
  case commit =>
    exact exec_at_go (suffix_of_drop 16 (by rw [stepListOf_commitInstr]; rfl)) hp (m := .commit true) rfl
  case last => exact exec_last 24 .nothing (by rw [stepListOf_commitInstr]; rfl) hp

/-- Settles O19: the echo check raises before the commit point. -/
theorem echoMismatchKeepsRecord : Obligations.EchoMismatchKeepsRecord := by
  intro w s busy acks counts reads reply hphase hlegal hbusy hack hcount hread hlen hecho
  exact ⟨_, runExec_commitInstr_wrongEcho hphase hlegal rfl ⟨hbusy, hack, hcount, hread, hlen⟩ hecho, rfl, rfl,
    rfl, rfl, rfl, rfl, rfl, rfl, rfl, rfl⟩

/-- Settles O20: of the places at which a running operation writes the record, only the commit point is a
set-and-commit's. -/
theorem setAndCommitKeepsRecordElsewhere : Obligations.SetAndCommitKeepsRecordElsewhere := by
  intro w s t h hplace
  by_contra hne
  rcases commitInstr_writesRecordHere h hne with ⟨-, hloc⟩ | ⟨hi, -⟩
  · exact hplace hloc
  · exact commitInstr_ne_eepromRead w hi

/-- Settles O25: step 1 of the transition raises before any event; before it the operation's steps complete. -/
theorem codecMissStopsTransparentModes : Obligations.CodecMissStopsTransparentModes := by
  refine ⟨fun s hphase hmiss => ⟨?normal, ?wor⟩, fun i m place hat ht op s hp hmiss => ?step,
    fun addr len h0 h1 h2 data s busy acks counts reads hphase hmiss hbusy hread => ⟨?regWrite, ?regRead,
      ?eepromWrite, ?eepromRead⟩, ?commit⟩
  case normal | wor => exact exec_idle_raise (f := .invalidArgument) rfl hphase (transCheckStep_miss rfl hmiss)
  case step =>
    obtain ⟨post, hs⟩ := hat.suffix_drop
    rw [exec_at (hs 0) hp, runMicro, transCheckStep_miss ht hmiss]
    rfl
  case regWrite =>
    rintro hspan rfl rfl hack hcount
    exact runExec_regWrite_codecMiss hphase hmiss hspan hbusy hack hcount hread (reply_length h0 _ _ data) rfl
  case regRead =>
    intro hspan hlen hack hcount
    have hreply : (h0 :: h1 :: h2 :: data).length = 3 + len.toNat := by rw [reply_length, hlen]
    exact runExec_regRead_codecMiss hphase hmiss hspan hbusy hack hcount hread hreply
  case eepromWrite =>
    rintro rfl rfl rfl hack hcount
    exact runExec_eepromWrite_codecMiss hphase hmiss ⟨hbusy, hack, hcount, hread, rfl⟩ rfl
  case eepromRead =>
    intro hlen hack hcount
    have hreply : (h0 :: h1 :: h2 :: data).length = 3 + 9 := by rw [reply_length, hlen]
    exact runExec_eepromRead_codecMiss hphase hmiss hbusy hack hcount hread hreply
  case commit =>
    intro w header s busy acks counts reads r hphase hlegal hmiss hbusy hack hcount hread
    exact runExec_commitInstr_codecMiss hphase hlegal rfl hmiss ⟨hbusy, hack, hcount, hread, rfl⟩ rfl

end Sys2Proof.Proofs

/-!
PROOFS. The order of a transition's port events (spec/42_mode_controller.md R223, R231): which steps write select
lines or read BUSY, what stands directly before a pin write in every step list, and that every step keeps `PinOrder`.
-/

namespace Sys2Proof.Machine

/-! ### What a step does to the order of the history -/

/-- The poll loop goes on (R224). -/
def StepResult.waits : StepResult → Bool
  | .stay _ => true
  | _ => false

/-- A step that keeps the order of the history whatever came before it, and does not wait. -/
structure StepResult.Quiet (s : State) (x : StepResult) : Prop where
  history : drivenAfterReady s.trace → drivenAfterReady x.state.trace
  goesOn : x.waits = false

theorem StepResult.Quiet.go {s u : State} (h : u.trace = s.trace) : (StepResult.go u).Quiet s :=
  ⟨fun hs => by rw [StepResult.state, h]; exact hs, rfl⟩

theorem recvStep_quiet (k : Nat) (s : State) : (recvStep k s).Quiet s := by
  rcases recvStep_cases k s with ⟨-, h⟩ | ⟨l, -, -, h⟩ | ⟨l, -, -, h⟩ <;> rw [h] <;> exact ⟨(⟨trivial, ·⟩), rfl⟩

/-- Only the poll loop waits, and only steps 3 and 4 of a transition write a select line (R223, R224). -/
theorem runMicro_quiet {m : Micro} (hpoll : m ≠ .poll) (hdrive : ∀ l v, m ≠ .drive l v) (s : State) :
    (runMicro m s).Quiet s := by
  cases m with
  | poll => exact absurd rfl hpoll
  | drive l v => exact absurd rfl (hdrive l v)
  | require holds f => cases holds <;> exact ⟨id, rfl⟩
  | transCheck t =>
    rcases transCheckStep_cases t s with ⟨h, -⟩ | ⟨b, p, h⟩ <;> rw [runMicro, h] <;> exact ⟨id, rfl⟩
  | uartConfigure =>
    rcases uartConfigureStep_cases s with ⟨-, h⟩ | ⟨-, h⟩ <;> rw [runMicro, h] <;> exact ⟨(⟨trivial, ·⟩), rfl⟩
  | uartReadRule a b =>
    rcases uartReadRuleStep_cases a b s with ⟨-, h⟩ | ⟨-, h⟩ <;> rw [runMicro, h] <;>
      exact ⟨(⟨trivial, ·⟩), rfl⟩
  | settle => exact ⟨(⟨trivial, ·⟩), rfl⟩
  | send =>
    rcases sendStep_cases s with ⟨-, h⟩ | ⟨-, h⟩ <;> rw [runMicro, h] <;> exact ⟨(⟨trivial, ·⟩), rfl⟩
  | flush =>
    rcases flushStep_cases s with ⟨-, h⟩ | ⟨-, h⟩ <;> rw [runMicro, h] <;> exact ⟨(⟨trivial, ·⟩), rfl⟩
  | recv k => exact recvStep_quiet k s
  | recvEcho => exact recvStep_quiet s.txf.length s
  | checkEcho =>
    rcases checkEchoStep_cases s with ⟨-, h⟩ | ⟨-, h⟩ <;> rw [runMicro, h] <;> exact ⟨id, rfl⟩
  | commit fromStaged => cases fromStaged <;> exact .go rfl
  | clearExtract legal => cases legal <;> exact ⟨id, rfl⟩
  | storeTail n => exact .go (storeTail_trace n s)
  | markDeferred => exact .go (markDeferred_trace s)
  | _ => exact ⟨id, rfl⟩

theorem poll_history {s : State} (h : drivenAfterReady s.trace) :
    drivenAfterReady (runMicro .poll s).state.trace := by
  rcases pollStep_cases s with ⟨-, hx⟩ | ⟨-, hx⟩ | ⟨-, hx⟩ <;> rw [runMicro, hx]
  · exact ⟨trivial, h⟩
  · exact ⟨trivial, h⟩
  · exact ⟨trivial, trivial, h⟩

/-- Whatever it is answered, a pin write is the one event of its step. -/
theorem drive_trace (l : Line) (v : Bool) (s : State) :
    (runMicro (.drive l v) s).state.trace = ⟨.gWr l v, ackAnswer (nextAck s)⟩ :: s.trace := by
  rcases driveStep_cases l v s with ⟨-, hx⟩ | ⟨-, hx⟩ <;> rw [runMicro, hx]
  · exact setLine_trace l v _
  · exact loseLine_trace l _

/-- The poll loop is left with BUSY just read ready (R223 step 2). -/
theorem poll_go_head {s u : State} (h : runMicro .poll s = .go u) :
    u.trace.head? = some ⟨.gRd, .lvl readyLevel⟩ := by
  rcases pollStep_cases s with ⟨-, hx⟩ | ⟨hb, hx⟩ | ⟨-, hx⟩ <;> rw [runMicro, hx] at h <;> cases h
  rw [afterBusy_trace, hb]; rfl

/-- A pin write that lets the next step follow was answered ok (R230). -/
theorem drive_go_head {l : Line} {v : Bool} {s u : State} (h : runMicro (.drive l v) s = .go u) :
    u.trace.head? = some ⟨.gWr l v, .ok⟩ := by
  rcases driveStep_cases l v s with ⟨ha, hx⟩ | ⟨-, hx⟩ <;> rw [runMicro, hx] at h <;> cases h
  rw [setLine_trace, afterAck_trace, ha]; rfl

theorem eq_poll_of_stay {m : Micro} {s u : State} (h : runMicro m s = .stay u) : m = .poll := by
  by_contra hpoll
  by_cases hdrive : ∃ l v, m = .drive l v
  · obtain ⟨l, v, rfl⟩ := hdrive
    rcases driveStep_cases l v s with ⟨-, hx⟩ | ⟨-, hx⟩ <;> rw [runMicro, hx] at h <;> cases h
  · have hwaits := (runMicro_quiet hpoll (fun l v hm => hdrive ⟨l, v, hm⟩) s).goesOn
    rw [h] at hwaits
    cases hwaits

/-- A step keeps the order of the history if a pin write finds what it waits for (R231). -/
theorem runMicro_history {m : Micro} {s : State} (h : drivenAfterReady s.trace)
    (ha : ∀ v, m = .drive .a v → s.trace.head? = some ⟨.gRd, .lvl readyLevel⟩)
    (hb : ∀ v, m = .drive .b v → ∃ w, s.trace.head? = some ⟨.gWr .a w, .ok⟩) :
    drivenAfterReady (runMicro m s).state.trace := by
  by_cases hdrive : ∃ l v, m = .drive l v
  · obtain ⟨l, v, rfl⟩ := hdrive
    rw [drive_trace]
    cases l with
    | a => exact ⟨ha v rfl, h⟩
    | b => exact ⟨hb v rfl, h⟩
  · by_cases hpoll : m = .poll
    · subst hpoll; exact poll_history h
    · exact (runMicro_quiet hpoll (fun l v hm => hdrive ⟨l, v, hm⟩) s).history h

/-! ### What stands directly before a pin write -/

/-- The step may stand directly before step `sub` of a transition: only the poll loop before step 3, only the write
of select-A before step 4 (R223). -/
def Micro.precedes : Micro → Option Nat → Bool
  | .poll, sub => sub != some 4
  | .drive .a _, sub => sub != some 3
  | _, sub => sub != some 3 && sub != some 4

theorem eq_poll_of_precedes {m : Micro} (h : m.precedes (some 3) = true) : m = .poll := by
  cases m with
  | poll => rfl
  | drive l v => cases l <;> cases h
  | _ => cases h

theorem eq_drive_of_precedes {m : Micro} (h : m.precedes (some 4) = true) : ∃ v, m = .drive .a v := by
  cases m with
  | drive l v =>
    cases l with
    | a => exact ⟨v, rfl⟩
    | b => cases h
  | _ => cases h

/-- Each step of a list precedes the next one. -/
def precedesNext : StepList → Bool
  | d :: e :: rest => d.2.precedes e.1.sub && precedesNext (e :: rest)
  | _ => true

/-- Every list holds the steps of its transitions one after another; the operands do not matter. -/
theorem Listed.precedesNext {i : Instr} (h : Listed i) : precedesNext (stepListOf i) = true := by
  cases h with
  | mode t => rw [stepListOf_modeInstr]; rfl
  | commit w => rw [stepListOf_commitInstr]; rfl
  | _ => rfl

/-- The poll loop is step 2 of its transition (R223). -/
def Micro.standsAt : Micro → Option Nat → Bool
  | .poll, sub => sub == some 2
  | _, _ => true

theorem Listed.standsAt {i : Instr} (h : Listed i) :
    (stepListOf i).all (fun e => e.2.standsAt e.1.sub) = true := by
  cases h with
  | mode t => rw [stepListOf_modeInstr]; rfl
  | commit w => rw [stepListOf_commitInstr]; rfl
  | _ => rfl

theorem precedes_of_suffix {d e : Loc × Micro} {rest p : StepList} (hp : precedesNext p = true)
    (h : d :: e :: rest <:+ p) : d.2.precedes e.1.sub = true := by
  induction p with
  | nil => simp at h
  | cons f p ih =>
    rcases List.suffix_cons_iff.1 h with heq | hs
    · cases heq
      exact (Bool.and_eq_true_iff.1 hp).1
    · cases p with
      | nil => simp at hs
      | cons g p => exact ih (Bool.and_eq_true_iff.1 hp).2 hs

/-! ### Every step keeps the order -/

theorem RunsMicro.listed {i : Instr} {s t : State} {loc : Loc} {m : Micro} {rest : StepList}
    (h : RunsMicro i s t loc m rest) : Listed i :=
  listed_of_stepListOf_ne_nil fun hnil => by simpa [hnil] using h.mem

/-- After a step of a list the operation stands at a place because the step completed and the next one is there, or
because it is the poll loop, which stands at step 2 of a transition. -/
theorem RunsMicro.next_place {i op : Instr} {s t : State} {loc next : Loc} {m : Micro} {rest : StepList}
    (h : RunsMicro i s t loc m rest) (hp : t.phase = .run op next) :
    (∃ u, runMicro m s = .go u ∧ t.trace = u.trace ∧ m.precedes next.sub = true) ∨ next.sub = some 2 := by
  have hsettled := h.settled
  cases hx : runMicro m s with
  | go u =>
    rw [hx] at hsettled
    subst hsettled
    cases rest with
    | nil => cases hp
    | cons e rest =>
      cases hp
      exact .inl ⟨u, rfl, rfl, precedes_of_suffix h.listed.precedesNext h.suffix⟩
  | stay u =>
    obtain rfl := eq_poll_of_stay hx
    rw [hx] at hsettled
    subst hsettled
    cases hp
    exact .inr (eq_of_beq (List.all_eq_true.1 h.listed.standsAt _ h.mem))
  | raise f u => rw [hx] at hsettled; subst hsettled; cases hp
  | done result u => rw [hx] at hsettled; subst hsettled; cases hp

/-- A step that no list begins with is a step of an operation in progress. -/
theorem RunsMicro.running {i : Instr} {s t : State} {loc : Loc} {m : Micro} {rest : StepList}
    (h : RunsMicro i s t loc m rest) (hm : m.opens = false) : ∃ op, s.phase = .run op loc := by
  rcases h.place with ⟨-, hhead⟩ | hrun
  · simp [stepListOf_head_opens hhead] at hm
  · exact hrun

theorem RunsMicro.history {i : Instr} {s t : State} {loc : Loc} {m : Micro} {rest : StepList}
    (h : RunsMicro i s t loc m rest) (hs : PinOrder s) : drivenAfterReady t.trace := by
  have hplaced : Placed i loc m := stepListOf_placed i _ h.mem
  obtain ⟨ph, rs, ht⟩ := settleStep_eq_state i loc rest (runMicro m s)
  rw [h.settled, ht]
  refine runMicro_history hs.history (fun v hm => ?_) (fun v hm => ?_) <;> subst hm <;>
    obtain ⟨op, hp⟩ := h.running rfl
  · exact hs.beforeA op loc hp hplaced
  · exact hs.beforeB op loc hp hplaced

theorem RunsMicro.pinOrder {i : Instr} {s t : State} {loc : Loc} {m : Micro} {rest : StepList}
    (h : RunsMicro i s t loc m rest) (hs : PinOrder s) : PinOrder t where
  history := h.history hs
  beforeA op next hp hsub := by
    rcases h.next_place hp with ⟨u, hu, htrace, hm⟩ | htwo
    · rw [hsub] at hm
      obtain rfl := eq_poll_of_precedes hm
      rw [htrace, poll_go_head hu]
    · rw [hsub] at htwo; cases htwo
  beforeB op next hp hsub := by
    rcases h.next_place hp with ⟨u, hu, htrace, hm⟩ | htwo
    · rw [hsub] at hm
      obtain ⟨v, rfl⟩ := eq_drive_of_precedes hm
      exact ⟨v, by rw [htrace, drive_go_head hu]⟩
    · rw [hsub] at htwo; cases htwo

/-- In idle no pin write is next. -/
theorem pinOrder_of_idle {s : State} (h : drivenAfterReady s.trace) (hp : s.phase = .idle) : PinOrder s :=
  have hnone : ∀ op loc, s.phase ≠ .run op loc := by rw [hp]; nofun
  ⟨h, fun op loc hrun => absurd hrun (hnone op loc), fun op loc hrun => absurd hrun (hnone op loc)⟩

/-- The order does not look at the host's packets or the reset input. -/
theorem PinOrder.withPorts {s : State} (h : PinOrder s) (cmds : List (List Byte)) (pins : List Bool) :
    PinOrder (s.withPorts cmds pins) := ⟨h.history, h.beforeA, h.beforeB⟩

/-- Of the operations of one step only the reply is a port event. -/
theorem AtOnce.trace_eq {i : Instr} {s u : State} (h : AtOnce i s u) :
    u.trace = s.trace ∨ ∃ h0 h1 h2 data, i = .wireReply h0 h1 h2 data := by
  cases h with
  | reply h0 h1 h2 data => exact .inr ⟨h0, h1, h2, data, rfl⟩
  | _ => exact .inl rfl

theorem exec_keeps_pinOrder {i : Instr} {s t : State} (hs : PinOrder s) (h : exec i s = .next t) : PinOrder t := by
  rcases exec_cases h with ⟨-, packet, u, rfl, -, hat⟩ | ⟨loc, m, rest, hm⟩
  · refine pinOrder_of_idle ?_ rfl
    rcases hat.trace_eq with htrace | ⟨h0, h1, h2, data, rfl⟩
    · rw [respond_trace, htrace]
      exact hs.history
    · injection h with ht
      rw [← ht]
      exact ⟨trivial, hs.history⟩
  · exact hm.pinOrder hs

end Sys2Proof.Machine

/-!
PROOFS. Whole runs of the mode controller (spec/42_mode_controller.md): a `MODE` operation without fault (R225 to R229)
and the turns of the poll loop (R224).
-/

namespace Sys2Proof.Machine

/-- A `MODE` operation whose step 1 gives the codes `b`, `p` is one transition and its report (R223, R225 to R229). -/
theorem modeInstr_completes {t : Mode} {b : BitVec 3} {p : BitVec 2} {s : State}
    (hcheck : transCheckStep t s = .go { s with tb := b, tp := p }) :
    ModeCompletes (modeInstr t) (pins t).1 (pins t).2 b p (readRule t).2 s := by
  intro busy acks hphase hbusy hack
  have hl : Listed (modeInstr t) := .mode t
  have hsteps : remaining (stepListOf (modeInstr t)) s.phase =
      transitionSteps (topLoc 1) t ++ [(topLoc 2 none, .done .nothing)] := by
    rw [hphase, stepListOf_modeInstr]; rfl
  have hmin : (readRule t).1 = 0 := by cases t <;> rfl
  have hrule : readRule t = (0, (readRule t).2) := by rw [← hmin]
  have hrun := runExec_of_completes hl.exec_eq hl.places_nodup hsteps
    (completes_transition (topLoc 1) hcheck hbusy (acks := acks) hack)
  rw [afterTransition, transitionEvents, hrule] at hrun
  exact hrun

theorem poll_notReady {s : State} {busy : List BusyAnswer} (h : s.busyIn = .lvl false :: busy) :
    runMicro .poll s = .stay { s with
      busyIn := busy, frees := s.frees + 1
      trace := [⟨.dly s.pollInterval.toNat, .none⟩, ⟨.gRd, .lvl false⟩] ++ s.trace } := by
  simp [runMicro, pollStep, afterBusy, nextBusy, h, logEvent, busyAnswer, readyLevel]

/-- One turn of the poll loop leaves the operation where it stands (R224). -/
theorem exec_poll_notReady {i : Instr} {m : Mode} {place : Option Nat → Loc} {s : State} {busy : List BusyAnswer}
    (hat : TransitionAt i m place) (hphase : s.phase = .run i (place (some 2)))
    (hbusy : s.busyIn = .lvl false :: busy) :
    exec i s = .next { s with
      busyIn := busy, frees := s.frees + 1
      trace := [⟨.dly s.pollInterval.toNat, .none⟩, ⟨.gRd, .lvl false⟩] ++ s.trace } := by
  obtain ⟨post, hs⟩ := hat.suffix_drop
  rw [exec_at (hs 1) hphase, poll_notReady hbusy, settleStep, ← hphase]

end Sys2Proof.Machine

/-!
PROOFS. The statements of spec/42_mode_controller.md.
-/

namespace Sys2Proof.Proofs

open Sys2Proof Sys2Proof.Machine

/-- Settles O27: a pin write stands in its list directly after the step it waits for, and that step is left only with
the answer it waits for. -/
theorem stepKeepsPinOrder : Obligations.StepKeepsPinOrder := by
  intro s t hs h
  cases hr : resetAsserted s with
  | true =>
    rw [step_reset hr] at h
    cases h
    exact pinOrder_of_idle hs.history rfl
  | false =>
    obtain ⟨cmds, pins, ⟨-, rfl⟩ | ⟨-, rfl⟩ | ⟨i, -, -, hx⟩⟩ := step_cases hr h
    · exact hs.withPorts cmds pins
    · exact pinOrder_of_idle hs.history rfl
    · exact exec_keeps_pinOrder (hs.withPorts cmds pins) hx

/-- Settles O22: step 1 gives the record's codes or the control setting, and the rest is the same for every mode. -/
theorem modeOperationsComplete : Obligations.ModeOperationsComplete := by
  intro s
  refine ⟨fun hnative => ?normal, fun hnative => ?wor, ?config, ?sleep⟩
  case normal => exact modeInstr_completes (t := .normal) (transCheckStep_native rfl hnative)
  case wor => exact modeInstr_completes (t := .wor) (transCheckStep_native rfl hnative)
  case config => exact modeInstr_completes (t := .config) (transCheckStep_control s rfl)
  case sleep => exact modeInstr_completes (t := .sleep) (transCheckStep_control s rfl)

/-- Settles O26, by induction on the number of answers: each turn takes one and stands at step 2 again. -/
theorem busyPollNeverGivesUp : Obligations.BusyPollNeverGivesUp := by
  intro i m place hat n
  induction n with
  | zero =>
    intro s busy _ hbusy
    obtain rfl : s.busyIn = busy := hbusy
    rfl
  | succ n ih =>
    intro s busy hphase hbusy
    have hturn := exec_poll_notReady hat hphase hbusy
    rw [runExec_succ hturn]
    refine Eq.trans (ih _ busy hphase rfl) ?_
    simp only [List.replicate_succ', List.flatten_append, List.flatten_singleton, List.append_assoc,
      Nat.add_assoc, Nat.add_comm 1 n]

/-- Settles O28: every operand is legal, and the operation is one step. -/
theorem setPollResult : Obligations.SetPollResult := fun _ _ => rfl

end Sys2Proof.Proofs

/-!
PROOFS. The operations of spec/43_register_transport.md: the span checks (R251, R252), and the complete runs of
`REG_WRITE` (R256), `RSSI_READ` (R268), `EEPROM_WRITE` (R274), `EEPROM_READ` (R276) and `NOISE_INIT` (R280), each put
together from its checks, transitions and exchanges.
-/

namespace Sys2Proof.Machine

/-! ### The checks before any port event -/

/-- `len = 0` stops an operation that takes a span in its first step (R251). -/
theorem exec_noByte {i : Instr} {someByte : Bool} {loc : Loc} {rest : StepList} {s : State}
    (hs : stepListOf i = (loc, .require someByte .invalidArgument) :: rest) (hphase : s.phase = .idle)
    (hsome : someByte = false) : exec i s = .next (faulted 1 s) :=
  exec_idle_raise (f := .invalidArgument) hs hphase (by rw [hsome]; rfl)

/-- A span of some bytes that is not valid stops the operation in its second step (R252). -/
theorem runExec_invalidSpan {i : Instr} {someByte spanValid : Bool} {l₁ l₂ : Loc} {rest : StepList} {s : State}
    (hs : stepListOf i = (l₁, .require someByte .invalidArgument) :: (l₂, .require spanValid .addressRange) :: rest)
    (hphase : s.phase = .idle) (hsome : someByte = true) (hvalid : spanValid = false) :
    runExec i 2 s = .next (faulted 2 s) := by
  subst hsome hvalid
  have hl : Listed i := listed_of_stepListOf_ne_nil (by rw [hs]; exact List.cons_ne_nil _ _)
  exact runExec_of_raise (block := [(l₁, .require true .invalidArgument)]) (f := .addressRange) hl hphase hs rfl rfl

theorem one_le_toNat_of_ne_zero {len : Byte} (h : len ≠ 0) : 1 ≤ len.toNat := by
  bv_omega

/-! ### Whole runs -/

/-- From idle, an operation whose steps before its `done` complete runs to its answer. -/
theorem runExec_whole {i : Instr} {block : StepList} {loc : Loc} {r : ResultForm} {s t : State} (hl : Listed i)
    (hphase : s.phase = .idle) (hs : stepListOf i = block ++ [(loc, .done r)])
    (ht : completes (block.map Prod.snd) s = some t) :
    runExec i (block.length + 1) s = .next (answered (resultBytes r t) t) :=
  runExec_of_completes hl.exec_eq hl.places_nodup (by rw [hphase]; exact hs) ht

section

variable {s : State} {reply : List Byte} {busy : List BusyAnswer} {acks : List AckAnswer}
  {counts : List CountAnswer} {reads : List ReadAnswer}

/-! ### `REG_WRITE` -/

/-- The steps of `REG_WRITE` before its report (R256). -/
def regWriteBlock (addr : Byte) (data : List Byte) : StepList :=
  Proofs.checksAndConfig (decide (1 ≤ data.length)) (spanOk addr data.length) ++
    (writeExchange topLoc (.load (frameW addr data)) ++ transitionSteps (topLoc 10) .normal)

theorem regWriteSteps_eq_block (addr : Byte) (data : List Byte) :
    regWriteSteps addr data = regWriteBlock addr data ++ [(topLoc 11 none, .done .nothing)] := rfl

/-- An echo that equals the frame from byte 1 on lets `REG_WRITE` of a valid span complete (R256, R257). -/
theorem completes_regWriteBlock {addr : Byte} {data : List Byte} (hspan : spanOk addr data.length = true)
    (hnative : hasNative s.record) (hbusy : s.busyIn = .lvl true :: .lvl true :: busy)
    (hack : s.ackIn = List.replicate 9 .ok ++ acks) (hcount : s.countIn = .cnt (frameW addr data).length :: counts)
    (hread : s.readIn = .bytes reply :: reads) (hlen : reply.length = (frameW addr data).length)
    (hecho : reply.drop 1 = (frameW addr data).drop 1) :
    completes ((regWriteBlock addr data).map Prod.snd) s =
      some (withInputs busy acks counts reads (afterWrite (frameW addr data) reply s.record s)) := by
  obtain ⟨hsome, hrange⟩ := spanOk_iff.1 hspan
  have hframe := frameW_length addr data
  have hmax : (frameW addr data).length ≤ frameMax := by simp only [frameMax]; omega
  refine completes_append (completes_checksAndConfig (decide_eq_true hsome) hspan hbusy
    (acks := List.replicate 5 .ok ++ acks) hack) ?_
  refine completes_append (completes_writeExchange topLoc (acks := List.replicate 4 .ok ++ acks) (load_go _ hmax) hmax
    rfl hcount hread hlen hecho) ?_
  exact completes_transition (topLoc 10) (transCheckStep_native rfl hnative) rfl rfl

/-! ### `RSSI_READ` and `NOISE_INIT` -/

/-- The exchange on the RSSI channel between its two read rules (R268 steps 3 to 8, R280). -/
theorem completes_rssiBody (place : Nat → Option Nat → Loc) {addr len : Byte} (hack : s.ackIn = .ok :: .ok :: acks)
    (hcount : s.countIn = .cnt 6 :: counts) (hread : s.readIn = .bytes reply :: reads)
    (hlen : reply.length = 3 + len.toNat) (hmax : reply.length ≤ frameMax) :
    completes ((rssiBody place addr len).map Prod.snd) s =
      some (withInputs s.busyIn acks counts reads (afterRssiExchange (frameQ addr len) reply len.toNat s)) := by
  have hframe : (frameQ addr len).length ≤ frameMax := (by decide : 6 ≤ 12)
  refine completes_cons (uartReadRule_ok _ _ hack) ?_
  refine completes_append (completes_readExchange place hframe hcount hread hlen hmax) ?_
  exact completes_cons (uartReadRule_ok minImm 0 rfl) (completes_nil _)

/-- The steps of `RSSI_READ` before its report (R268). -/
def rssiReadBlock (addr len : Byte) : StepList :=
  (topLoc 1 none, .require (decide (1 ≤ len.toNat)) .invalidArgument) ::
    (topLoc 2 none, .require (rssiSpanOk addr len.toNat) .addressRange) :: rssiBody topLoc addr len

theorem rssiReadSteps_eq_block (addr len : Byte) :
    rssiReadSteps addr len = rssiReadBlock addr len ++ [(topLoc 9 none, .done (.data len.toNat))] := rfl

theorem completes_rssiReadBlock {addr len : Byte} (hspan : rssiSpanOk addr len.toNat = true)
    (hack : s.ackIn = .ok :: .ok :: acks) (hcount : s.countIn = .cnt 6 :: counts)
    (hread : s.readIn = .bytes reply :: reads) (hlen : reply.length = 3 + len.toNat) :
    completes ((rssiReadBlock addr len).map Prod.snd) s =
      some (withInputs s.busyIn acks counts reads (afterRssiExchange (frameQ addr len) reply len.toNat s)) := by
  obtain ⟨hsome, hrange⟩ := rssiSpanOk_iff.1 hspan
  have hmax : reply.length ≤ frameMax := by simp only [frameMax]; omega
  have hcheck : runMicro (.require (decide (1 ≤ len.toNat)) .invalidArgument) s = .go s := by
    rw [runMicro, decide_eq_true hsome]; rfl
  have hrangeCheck : runMicro (.require (rssiSpanOk addr len.toNat) .addressRange) s = .go s := by
    rw [runMicro, hspan]; rfl
  exact completes_cons hcheck (completes_cons hrangeCheck
    (completes_rssiBody topLoc hack hcount hread hlen hmax))

/-- `RSSI_READ` of a valid span answers the data part of the reply (R268, R108). -/
theorem runExec_rssiRead {addr len : Byte} (hphase : s.phase = .idle) (hspan : rssiSpanOk addr len.toNat = true)
    (hack : s.ackIn = .ok :: .ok :: acks) (hcount : s.countIn = .cnt 6 :: counts)
    (hread : s.readIn = .bytes reply :: reads) (hlen : reply.length = 3 + len.toNat) :
    runExec (.rssiRead addr len) 9 s = .next (answered (rxData reply len.toNat)
      (withInputs s.busyIn acks counts reads (afterRssiExchange (frameQ addr len) reply len.toNat s))) :=
  runExec_whole (.rssiRead addr len) hphase (rssiReadSteps_eq_block addr len)
    (completes_rssiReadBlock hspan hack hcount hread hlen)

/-- The steps of `NOISE_INIT` before its report (R280). -/
def noiseInitBlock : StepList :=
  rssiBody (fun n sub => ⟨1, [n], sub⟩) noiseAddr 1 ++ [(topLoc 2 none, .setFloor)]

theorem completes_noiseInitBlock {h0 h1 h2 v : Byte} (hack : s.ackIn = .ok :: .ok :: acks)
    (hcount : s.countIn = .cnt 6 :: counts) (hread : s.readIn = .bytes [h0, h1, h2, v] :: reads) :
    completes (noiseInitBlock.map Prod.snd) s = some (withInputs s.busyIn acks counts reads
      { afterRssiExchange (frameQ noiseAddr 1) [h0, h1, h2, v] 1 s with floor := some v }) := by
  have hexchange := completes_rssiBody (fun n sub => ⟨1, [n], sub⟩) (addr := noiseAddr) (len := 1) hack hcount hread
    rfl (by decide : 4 ≤ 12)
  exact completes_append hexchange (completes_cons rfl (completes_nil _))

/-! ### `EEPROM_WRITE` -/

/-- The steps of `EEPROM_WRITE` before its report (R274). -/
def eepromWriteBlock : StepList :=
  (topLoc 1 none, .encodeImage false) :: (writeBody (fun n sub => ⟨2, [n], sub⟩) .loadImage ++
    ((topLoc 3 none, .commit false) :: transitionSteps (fun sub => ⟨4, [], sub⟩) .normal))

/-- The image of the record is kept, written and, with a right echo, left as it is (R274). -/
theorem completes_eepromWriteBlock (hnative : hasNative s.record)
    (h : WriteAnswered reply (.lvl true :: busy) (List.replicate 4 .ok ++ acks) counts reads s)
    (hecho : reply.drop 1 = (recordFrame s.record).drop 1) :
    completes (eepromWriteBlock.map Prod.snd) s = some (withInputs busy acks counts reads
      { afterWrite (recordFrame s.record) reply s.record s with img := encodeRecord s.record }) := by
  have hencode : runMicro (.encodeImage false) s = .go { s with img := encodeRecord s.record } := rfl
  have hwritten := completes_imageEchoed (fun n sub => ⟨2, [n], sub⟩) rfl
    (h.staged s.staged (encodeRecord s.record)) hecho
  exact completes_cons hencode (completes_append hwritten (completes_cons rfl
    (completes_transition (fun sub => ⟨4, [], sub⟩) (transCheckStep_native (m := .normal) rfl hnative) rfl rfl)))

/-! ### `EEPROM_READ` -/

/-- A read exchange inside its two transitions, wherever it stands (R262 steps 3 to 8, R276). -/
theorem completes_readBody (place : Nat → Option Nat → Loc) {addr len : Byte} (hnative : hasNative s.record)
    (hbusy : s.busyIn = .lvl true :: .lvl true :: busy) (hack : s.ackIn = List.replicate 8 .ok ++ acks)
    (hcount : s.countIn = .cnt 3 :: counts) (hread : s.readIn = .bytes reply :: reads)
    (hlen : reply.length = 3 + len.toNat) (hmax : reply.length ≤ frameMax) :
    completes ((readBody place addr len).map Prod.snd) s =
      some (withInputs busy acks counts reads (afterReadExchange (frameR addr len) reply len.toNat s)) := by
  have hframe : (frameR addr len).length ≤ frameMax := (by decide : 3 ≤ 12)
  refine completes_append (completes_transition (place 3) (transCheckStep_control (m := .config) s rfl) hbusy
    (acks := List.replicate 4 .ok ++ acks) hack) ?_
  refine completes_append (completes_readExchange place hframe hcount hread hlen hmax) ?_
  exact completes_transition (place 8) (transCheckStep_native rfl hnative) rfl rfl

theorem rxImage_of_reply {h0 h1 h2 : Byte} {m : Image} (h : s.rxf = h0 :: h1 :: h2 :: imageBytes m) :
    rxImage s = m := by simp [rxImage, rxByte, h, imageBytes]

theorem rxPid_of_reply {h0 h1 h2 : Byte} {p : Pid} (h : s.rxf = h0 :: h1 :: h2 :: pidBytes p) :
    rxPid s = p := by simp [rxPid, rxByte, h, pidBytes]

/-- The image that the first read brought in is kept (R276 step 1). -/
theorem keepImage_go {h0 h1 h2 : Byte} {m : Image} (h : s.rxf = h0 :: h1 :: h2 :: imageBytes m) :
    runMicro .keepImage s = .go { s with img := m } := by
  rw [runMicro, rxImage_of_reply h]

/-- Record and identification block are taken in one step (R276 step 3). -/
theorem refresh_go {h0 h1 h2 : Byte} {p : Pid} (h : s.rxf = h0 :: h1 :: h2 :: pidBytes p) :
    runMicro .refresh s = .go { s with record := decodeRecord s.img, pid := some p } := by
  rw [runMicro, rxPid_of_reply h]

/-- The steps of `EEPROM_READ` before its report (R276). -/
def eepromReadBlock : StepList :=
  readBody (fun n sub => ⟨1, [n], sub⟩) 0x00 9 ++ ((topLoc 1 none, .keepImage) ::
    (readBody (fun n sub => ⟨2, [n], sub⟩) 0x80 7 ++ [(topLoc 3 none, .refresh)]))

/-- Both reads close with the codes of the old record, which is replaced only after the second (R276). -/
theorem completes_eepromReadBlock {m : Image} {p : Pid} {a0 a1 a2 b0 b1 b2 : Byte} (hnative : hasNative s.record)
    (hbusy : s.busyIn = List.replicate 4 (.lvl true) ++ busy) (hack : s.ackIn = List.replicate 16 .ok ++ acks)
    (hcount : s.countIn = .cnt 3 :: .cnt 3 :: counts)
    (hread : s.readIn = .bytes (a0 :: a1 :: a2 :: imageBytes m) :: .bytes (b0 :: b1 :: b2 :: pidBytes p) :: reads) :
    completes (eepromReadBlock.map Prod.snd) s = some (withInputs busy acks counts reads
      { afterReadExchange (frameR 0x80 7) (b0 :: b1 :: b2 :: pidBytes p) 7
          (afterReadExchange (frameR 0x00 9) (a0 :: a1 :: a2 :: imageBytes m) 9 s) with
        img := m
        record := decodeRecord m
        pid := some p }) := by
  have himage := completes_readBody (fun n sub => ⟨1, [n], sub⟩) (addr := 0x00) (len := 9) hnative hbusy
    (acks := List.replicate 8 .ok ++ acks) hack hcount hread rfl (by decide : 12 ≤ 12)
  refine completes_append himage (completes_cons (keepImage_go rfl) ?_)
  refine completes_append (completes_readBody (fun n sub => ⟨2, [n], sub⟩) (addr := 0x80) (len := 7)
    (busy := busy) (acks := acks) (counts := counts) (reads := reads) hnative rfl rfl rfl rfl rfl
    (by decide : 10 ≤ 12)) ?_
  exact completes_cons (refresh_go rfl) (completes_nil _)

end

end Sys2Proof.Machine

/-!
PROOFS. How an exchange fails (R253 to R255, R344, R346): the answers that make SEND, the flush and RECV raise, and
where these steps stand in the operations that write or read.
-/

namespace Sys2Proof.Machine

/-! ### The answers that make a step raise -/

theorem send_short {s : State} {k : Nat} {counts : List CountAnswer} (h : s.countIn = .cnt k :: counts)
    (hk : k ≠ s.txf.length) : runMicro .send s = .raise .ioFault { s with
      countIn := counts, frees := s.frees + 1, trace := ⟨.uWr s.txf, .cnt k⟩ :: s.trace } := by
  simp [runMicro, sendStep, afterCount, nextCount, h, logEvent, countAnswer, hk]

theorem send_err {s : State} {counts : List CountAnswer} (h : s.countIn = .err :: counts) :
    runMicro .send s = .raise .ioFault { s with
      countIn := counts, frees := s.frees + 1, trace := ⟨.uWr s.txf, .err⟩ :: s.trace } := by
  simp [runMicro, sendStep, afterCount, nextCount, h, logEvent, countAnswer]

theorem flush_err {s : State} {acks : List AckAnswer} (h : s.ackIn = .err :: acks) :
    runMicro .flush s = .raise .ioFault { s with
      ackIn := acks, frees := s.frees + 1, trace := ⟨.uFl, .err⟩ :: s.trace } := by
  rw [runMicro, flushStep, nextAck_of_cons h, afterAck_of_cons _ h]; rfl

theorem recvStep_err {k : Nat} {s : State} {reads : List ReadAnswer} (h : s.readIn = .err :: reads) :
    recvStep k s = .raise .ioFault { s with
      readIn := reads, frees := s.frees + 1, trace := ⟨.uRd k, .err⟩ :: s.trace } := by
  simp [recvStep, afterRead, nextRead, h, logEvent, readAnswer]

theorem recvStep_short {k : Nat} {s : State} {reply : List Byte} {reads : List ReadAnswer}
    (h : s.readIn = .bytes reply :: reads) (hshort : reply.length < k) (hmax : reply.length ≤ frameMax) :
    recvStep k s = .raise .protocolFault { s with
      rxf := reply, readIn := reads, frees := s.frees + 1, trace := ⟨.uRd k, .bytes reply⟩ :: s.trace } := by
  have hstep := recvStep_of_cons (k := k) h
  rw [List.take_of_length_le hmax] at hstep
  exact hstep.trans (if_neg hshort.ne)

/-- An operation in progress whose step raises ProtocolFault ends with status 4. -/
theorem exec_at_protocolFault {i op : Instr} {s t : State} {loc : Loc} {m : Micro} {rest : StepList}
    (hs : (loc, m) :: rest <:+ stepListOf i) (hphase : s.phase = .run op loc)
    (hm : runMicro m s = .raise .protocolFault t) : exec i s = .next (faulted 4 t) := by
  rw [exec_at hs hphase, hm]; rfl

/-! ### SEND, the flush and RECV at their places -/

section

variable {i op : Instr} {s : State} {loc : Loc} {rest : StepList}

theorem sendFails_at (hs : (loc, .send) :: rest <:+ stepListOf i) (hphase : s.phase = .run op loc) :
    SendFails i s := fun _ =>
  ⟨fun _ h hk => exec_at_ioFault hs hphase (send_short h hk), fun h => exec_at_ioFault hs hphase (send_err h)⟩

theorem flushFails_at (hs : (loc, .flush) :: rest <:+ stepListOf i) (hphase : s.phase = .run op loc) :
    FlushFails i s := fun _ h => exec_at_ioFault hs hphase (flush_err h)

/-- RECV of a fixed count (R262) and RECV of the echo (R256) fail alike. -/
theorem receiveFails_at {m : Micro} {k : Nat} (hs : (loc, m) :: rest <:+ stepListOf i)
    (hphase : s.phase = .run op loc) (hm : runMicro m s = recvStep k s) : ReceiveFails i k s := fun _ =>
  ⟨fun h => exec_at_ioFault hs hphase (hm.trans (recvStep_err h)),
    fun _ h hshort hmax => exec_at_protocolFault hs hphase (hm.trans (recvStep_short h hshort hmax))⟩

end

/-! ### Where exchanges stand -/

/-- A block that stands in a list is, from each of its steps on, the rest of the list up to what follows it. -/
theorem suffix_drop_of_stands {block p : StepList} (h : block <:+: p) : ∃ post, ∀ k, block.drop k ++ post <:+ p := by
  obtain ⟨pre, post, hp⟩ := h
  refine ⟨post, fun k => ⟨pre ++ block.take k, ?_⟩⟩
  rw [List.append_assoc, ← List.append_assoc _ _ post, List.take_append_drop, ← List.append_assoc, hp]

theorem WriteExchangeAt.steps_stand {i : Instr} {place : Nat → Loc} (h : WriteExchangeAt i place) :
    ∃ load, writeExchange (fun n _ => place n) load <:+: stepListOf i := by
  cases h with
  | regWrite addr data => exact ⟨.load (frameW addr data), stands_of_take_drop 9 rfl⟩
  | wireW addr data => exact ⟨.load (frameW addr data), stands_of_take_drop 0 rfl⟩
  | eepromWrite => exact ⟨.loadImage, stands_of_take_drop 8 rfl⟩
  | commit w => rw [stepListOf_commitInstr]; exact ⟨.loadImage, stands_of_take_drop 10 rfl⟩

theorem ReadExchangeAt.steps_stand {i : Instr} {len : Nat} {place : Nat → Loc} (h : ReadExchangeAt i len place) :
    ∃ frame, readExchange (fun n _ => place n) frame len <:+: stepListOf i := by
  cases h with
  | regRead addr len => exact ⟨frameR addr len, stands_of_take_drop 9 rfl⟩
  | rssiRead addr len => exact ⟨frameQ addr len, stands_of_take_drop 3 rfl⟩
  | wireR addr len => exact ⟨frameR addr len, stands_of_take_drop 0 rfl⟩
  | wireQ addr len => exact ⟨frameQ addr len, stands_of_take_drop 0 rfl⟩
  | eepromReadImage => exact ⟨frameR 0x00 9, stands_of_take_drop 7 rfl⟩
  | eepromReadPid => exact ⟨frameR 0x80 7, stands_of_take_drop 26 rfl⟩
  | noiseInit => exact ⟨frameQ noiseAddr 1, stands_of_take_drop 1 rfl⟩

end Sys2Proof.Machine

/-!
PROOFS. The RSSI channel (R250, R268, R280): the steps of which `RSSI_READ` and `NOISE_INIT` are made, and that none of
them touches the pins, the UART's baud and parity, or the record.
-/

namespace Sys2Proof.Machine

/-- The kinds of step of `RSSI_READ` and `NOISE_INIT`: no transition and no step that writes the record (R268, R280). -/
def Micro.onRssiChannel : Micro → Bool
  | .require _ _ | .uartReadRule _ _ | .load _ | .send | .flushOnRead | .recv _ | .setFloor | .done _ => true
  | _ => false

theorem rssiReadSteps_onRssiChannel (addr len : Byte) :
    (rssiReadSteps addr len).all (fun e => e.2.onRssiChannel) = true := rfl

theorem noiseInitSteps_onRssiChannel : noiseInitSteps.all (fun e => e.2.onRssiChannel) = true := rfl

/-- The port events of the RSSI channel: a frame out, a reply in, a read rule (R268). -/
def RssiChannelPort (p : PortEvent) : Prop := (∃ l, p = .uWr l) ∨ (∃ k, p = .uRd k) ∨ ∃ a b, p = .uRule a b

/-- Pins, lines, the UART's baud and parity, record and identification block stay, and the only events are those of
the RSSI channel. -/
structure OnlyUsesRssiChannel (s t : State) : Prop where
  mA : t.mA = s.mA
  mB : t.mB = s.mB
  lineA : t.lineA = s.lineA
  lineB : t.lineB = s.lineB
  uartCfg : t.uartCfg = s.uartCfg
  record : t.record = s.record
  pid : t.pid = s.pid
  events : ∃ events, t.trace = events ++ s.trace ∧ ∀ e ∈ events, RssiChannelPort e.port

/-- Every step of these kinds has at most one event, and it is one of the channel. -/
theorem runMicro_onlyUsesRssiChannel {m : Micro} (hm : m.onRssiChannel = true) (s : State) :
    OnlyUsesRssiChannel s (runMicro m s).state := by
  have hnone : ∃ events, s.trace = events ++ s.trace ∧ ∀ e ∈ events, RssiChannelPort e.port :=
    ⟨[], rfl, by simp⟩
  have hone : ∀ e : Event, RssiChannelPort e.port →
      ∃ events, e :: s.trace = events ++ s.trace ∧ ∀ e ∈ events, RssiChannelPort e.port :=
    fun e he => ⟨[e], rfl, by simpa using he⟩
  cases m with
  | require holds f => cases holds <;> exact ⟨rfl, rfl, rfl, rfl, rfl, rfl, rfl, hnone⟩
  | uartReadRule a b =>
    have hport := hone ⟨.uRule a b, ackAnswer (nextAck s)⟩ (.inr (.inr ⟨a, b, rfl⟩))
    rcases uartReadRuleStep_cases a b s with ⟨-, h⟩ | ⟨-, h⟩ <;> rw [runMicro, h] <;>
      exact ⟨rfl, rfl, rfl, rfl, rfl, rfl, rfl, hport⟩
  | send =>
    have hport := hone ⟨.uWr s.txf, countAnswer (nextCount s)⟩ (.inl ⟨s.txf, rfl⟩)
    rcases sendStep_cases s with ⟨-, h⟩ | ⟨-, h⟩ <;> rw [runMicro, h] <;>
      exact ⟨rfl, rfl, rfl, rfl, rfl, rfl, rfl, hport⟩
  | recv k =>
    have hport := hone ⟨.uRd k, readAnswer (nextRead s)⟩ (.inr (.inl ⟨k, rfl⟩))
    rcases recvStep_cases k s with ⟨-, h⟩ | ⟨l, -, -, h⟩ | ⟨l, -, -, h⟩ <;> rw [runMicro, h] <;>
      exact ⟨rfl, rfl, rfl, rfl, rfl, rfl, rfl, hport⟩
  | load | flushOnRead | setFloor | done => exact ⟨rfl, rfl, rfl, rfl, rfl, rfl, rfl, hnone⟩
  | _ => cases hm

/-- The sequencer moves only `phase` and the response port, so an operation made of such steps uses only the
channel. -/
theorem exec_onlyUsesRssiChannel {i : Instr} {s t : State} (hl : Listed i)
    (hall : (stepListOf i).all (fun e => e.2.onRssiChannel) = true) (h : exec i s = .next t) :
    OnlyUsesRssiChannel s t := by
  rw [hl.exec_eq] at h
  obtain ⟨loc, m, rest, hr, rfl⟩ := runSteps_cases h
  have hmem : (loc, m) ∈ stepListOf i := (hr ▸ remaining_suffix _ _).subset List.mem_cons_self
  have hm := runMicro_onlyUsesRssiChannel (List.all_eq_true.1 hall _ hmem) s
  obtain ⟨ph, rs, ht⟩ := settleStep_eq_state i loc rest (runMicro m s)
  rw [ht]
  exact ⟨hm.mA, hm.mB, hm.lineA, hm.lineB, hm.uartCfg, hm.record, hm.pid, hm.events⟩

end Sys2Proof.Machine

/-!
PROOFS. The statements of spec/43_register_transport.md.
-/

namespace Sys2Proof.Proofs

open Sys2Proof Sys2Proof.Machine

/-- Settles O30: both checks are requirements at the head of the list, and a failing requirement changes nothing. -/
theorem checksComeBeforeAnyPort : Obligations.ChecksComeBeforeAnyPort := by
  intro addr len data s hphase
  refine ⟨exec_noByte rfl hphase rfl, exec_noByte rfl hphase rfl, exec_noByte rfl hphase rfl,
    fun hsome hspan => ?write, fun hsome hspan => ?read, fun hsome hspan => ?rssi⟩
  case write => exact runExec_invalidSpan rfl hphase (decide_eq_true (List.length_pos_iff.2 hsome)) hspan
  case read | rssi => exact runExec_invalidSpan rfl hphase (decide_eq_true (one_le_toNat_of_ne_zero hsome)) hspan

/-- Settles O31: the checks, the transition to Config, the write exchange and the transition to Normal complete one
after another. -/
theorem regWriteCompletes : Obligations.RegWriteCompletes := by
  intro addr data header s busy acks counts reads hphase hspan hnative hbusy hack hcount hread
  rw [← frameW_length addr data] at hcount
  exact runExec_whole (.regWrite addr data) hphase (regWriteSteps_eq_block addr data)
    (completes_regWriteBlock hspan hnative hbusy hack hcount hread rfl rfl)

/-- Settles O34: the gap rule, the read exchange and the immediate rule complete, and the report is the reply without
its three header bytes. -/
theorem rssiReadCompletes : Obligations.RssiReadCompletes := by
  intro addr len h0 h1 h2 data s acks counts reads hphase hspan hlen hack hcount hread
  have hreply : (h0 :: h1 :: h2 :: data).length = 3 + len.toNat := by rw [reply_length, hlen]
  rw [runExec_rssiRead hphase hspan hack hcount hread hreply, rxData_eq hlen]
  rfl

/-- Settles O35: the write exchange sends the image of the record, and the commit of the record itself writes
nothing. -/
theorem eepromWriteCompletes : Obligations.EepromWriteCompletes := by
  intro header s busy acks counts reads hphase hnative hbusy hack hcount hread
  exact runExec_whole .eepromWrite hphase (block := eepromWriteBlock) rfl
    (completes_eepromWriteBlock hnative ⟨hbusy, hack, hcount, hread, rfl⟩ rfl)

/-- Settles O36: two reads inside their transitions, the image kept between them, and one step that takes all. -/
theorem eepromReadCompletes : Obligations.EepromReadCompletes := by
  intro m p a0 a1 a2 b0 b1 b2 s busy acks counts reads hphase hnative hbusy hack hcount hread
  exact runExec_whole .eepromRead hphase (block := eepromReadBlock) rfl
    (completes_eepromReadBlock hnative hbusy hack hcount hread)

/-- Settles O37: the exchange of `RSSI_READ` for one byte, which is then the floor and the answer. -/
theorem noiseInitCompletes : Obligations.NoiseInitCompletes := by
  intro h0 h1 h2 v s acks counts reads hphase hack hcount hread
  exact runExec_whole .noiseInit hphase (block := noiseInitBlock) rfl
    (completes_noiseInitBlock hack hcount hread)

/-- Settles O38: SEND, the flush and RECV stand one after another in every exchange, and each raises with only its
event done. -/
theorem exchangeFaults : Obligations.ExchangeFaults := by
  refine ⟨fun i place hat op s => ?write, fun i len place hat op s => ?read⟩
  case write =>
    obtain ⟨load, hstand⟩ := hat.steps_stand
    obtain ⟨post, hs⟩ := suffix_drop_of_stands hstand
    exact ⟨sendFails_at (hs 1), flushFails_at (hs 2), fun hp => receiveFails_at (hs 3) hp rfl⟩
  case read =>
    obtain ⟨frame, hstand⟩ := hat.steps_stand
    obtain ⟨post, hs⟩ := suffix_drop_of_stands hstand
    exact ⟨sendFails_at (hs 1), fun hp => receiveFails_at (hs 3) hp rfl⟩

/-- Settles O39: both lists are made of steps that use only the RSSI channel. -/
theorem rssiChannelLeavesPinsAlone : Obligations.RssiChannelLeavesPinsAlone := by
  intro addr len s t h
  have hchannel : OnlyUsesRssiChannel s t := by
    rcases h with h | h
    · exact exec_onlyUsesRssiChannel (.rssiRead addr len) (rssiReadSteps_onRssiChannel addr len) h
    · exact exec_onlyUsesRssiChannel .noiseInit noiseInitSteps_onRssiChannel h
  obtain ⟨hmA, hmB, hlineA, hlineB, hcfg, hrecord, hpid, hevents⟩ := hchannel
  exact ⟨hmA, hmB, hlineA, hlineB, hcfg, hrecord, hpid, hevents⟩

end Sys2Proof.Proofs

/-!
PROOFS. The telemetry extractor, part by part (spec/44_telemetry.md R300 to R312, R324): what one byte does to each
part of the cursor, that `MAX_SEG` only cuts the stores off, and where payload and samples stand in the buffer.
-/

namespace Sys2Proof.Machine

/-! ### A store with a capacity -/

/-- A store of at most `m` entries takes one more while there is room (R311). -/
def pushUpTo {α : Type} (m : Nat) (l : List α) (x : α) : List α := if l.length < m then l ++ [x] else l

theorem pushUpTo_of_lt {α : Type} {m : Nat} {l : List α} (h : l.length < m) (x : α) :
    pushUpTo m l x = l ++ [x] := if_pos h

theorem pushUpTo_eq_or {α : Type} (m : Nat) (l : List α) (x : α) :
    pushUpTo m l x = l ∨ pushUpTo m l x = l ++ [x] := by
  unfold pushUpTo
  split
  · exact .inr rfl
  · exact .inl rfl

/-- A smaller store goes on holding what a larger one took first. -/
theorem pushUpTo_eq_take {α : Type} {m n : Nat} {l l' : List α} (hmn : m ≤ n) (h : l = l'.take m) (x : α) :
    pushUpTo m l x = (pushUpTo n l' x).take m := by
  subst h
  by_cases hm : l'.length < m
  · rw [List.take_of_length_le hm.le, pushUpTo_of_lt hm, pushUpTo_of_lt (hm.trans_le hmn),
      List.take_of_length_le (by simpa using hm)]
  · have hfull : ¬ (l'.take m).length < m := by simpa using hm
    rw [pushUpTo, if_neg hfull]
    rcases pushUpTo_eq_or n l' x with h | h
    · rw [h]
    · rw [h, List.take_append_of_le_length (Nat.le_of_not_lt hm)]

/-- Where the smaller store has room, so has the larger one, and the entry is cut off from neither. -/
theorem room_of_eq_take {α : Type} {m n : Nat} {l l' : List α} (hmn : m ≤ n) (h : l = l'.take m)
    (hroom : decide (m ≤ l.length) = false) (x : α) :
    decide (n ≤ l'.length) = false ∧ (pushUpTo n l' x).length ≤ m := by
  rw [h, List.length_take, decide_eq_false_iff_not] at hroom
  have hlt : l'.length < m := by omega
  rw [pushUpTo_of_lt (hlt.trans_le hmn), List.length_append, List.length_singleton, decide_eq_false_iff_not]
  exact ⟨Nat.not_le_of_lt (hlt.trans_le hmn), hlt⟩

/-! ### One byte, an equation per case -/

theorem telemetryByte_recorded {q : ExtractParams} {i : Nat} {b : Byte} {c : Cursor}
    (hr : 0 < i ∨ q.carryRecorded = true) : telemetryByte q i b c =
      { c with smp := pushUpTo q.maxSeg c.smp b
               overflow := c.overflow || decide (q.maxSeg ≤ c.smp.length), expect := false } := by
  rw [telemetryByte, if_pos hr, pushUpTo]
  by_cases h : c.smp.length < q.maxSeg
  · simp [h]
  · simp [h, Nat.le_of_not_lt h]

theorem closeSegment_eq (q : ExtractParams) (first i : Nat) (c : Cursor) : closeSegment q first i c =
    { c with seg := pushUpTo q.maxSeg c.seg ⟨first, i⟩
             overflow := c.overflow || decide (q.maxSeg ≤ c.seg.length)
             rxSegments := c.rxSegments + 1, start := none, expect := true } := by
  rw [closeSegment, pushUpTo]
  by_cases h : c.seg.length < q.maxSeg
  · simp [h]
  · simp [h, Nat.le_of_not_lt h]

section OneByte

variable {q : ExtractParams} {i : Nat} {upTo : List Byte} {b : Byte} {c : Cursor}

/-- A telemetry byte that is recorded (R305, R306). -/
theorem extractByte_recorded (he : c.expect = true) (hr : 0 < i ∨ q.carryRecorded = true) :
    extractByte q i upTo b c =
      { c with smp := pushUpTo q.maxSeg c.smp b
               overflow := c.overflow || decide (q.maxSeg ≤ c.smp.length), expect := false } := by
  rw [extractByte, if_pos he, telemetryByte_recorded hr]

/-- The carried telemetry byte where carried samples are not recorded (R305). -/
theorem extractByte_unrecorded (he : c.expect = true) (hr : ¬ (0 < i ∨ q.carryRecorded = true)) :
    extractByte q i upTo b c = { c with expect := false } := by
  rw [extractByte, if_pos he, telemetryByte, if_neg hr]

/-- A payload byte that ends no segment (R304). -/
theorem extractByte_inside (he : c.expect = false) (hs : q.segEnd upTo = false) :
    extractByte q i upTo b c =
      { c with payload := c.payload ++ [b], start := some (c.start.getD i), expect := false } := by
  simp [extractByte, payloadByte, he, hs]

/-- A payload byte that ends a segment (R304, R307). -/
theorem extractByte_closing (he : c.expect = false) (hs : q.segEnd upTo = true) :
    extractByte q i upTo b c =
      { c with payload := c.payload ++ [b], seg := pushUpTo q.maxSeg c.seg ⟨c.start.getD i, i⟩
               overflow := c.overflow || decide (q.maxSeg ≤ c.seg.length)
               rxSegments := c.rxSegments + 1, start := none, expect := true } := by
  simp [extractByte, payloadByte, closeSegment_eq, he, hs]

/-- A telemetry byte is at most a sample: it ends what was due and moves nothing of the payload (R305, R306). -/
theorem extractByte_of_telemetry (he : c.expect = true) :
    ∃ smp overflow, (smp = c.smp ∨ smp = c.smp ++ [b]) ∧
      extractByte q i upTo b c = { c with smp := smp, overflow := overflow, expect := false } := by
  by_cases hr : 0 < i ∨ q.carryRecorded = true
  · exact ⟨_, _, pushUpTo_eq_or _ _ b, extractByte_recorded he hr⟩
  · exact ⟨_, _, .inl rfl, extractByte_unrecorded he hr⟩

/-- A payload byte is no sample, and what it ends `SEG_END` says (R302, R304). -/
theorem extractByte_of_payload (he : c.expect = false) :
    ∃ seg overflow, extractByte q i upTo b c =
      { c with payload := c.payload ++ [b], seg := seg, overflow := overflow, expect := q.segEnd upTo
               rxSegments := c.rxSegments + (if q.segEnd upTo then 1 else 0)
               start := if q.segEnd upTo then none else some (c.start.getD i) } := by
  cases hs : q.segEnd upTo with
  | true => exact ⟨_, _, extractByte_closing he hs⟩
  | false => exact ⟨c.seg, c.overflow, by simpa using extractByte_inside he hs⟩

theorem extractByte_payload_sublist {l : List Byte} (h : c.payload.Sublist l) :
    (extractByte q i upTo b c).payload.Sublist (l ++ [b]) := by
  cases he : c.expect with
  | true =>
    obtain ⟨smp, overflow, -, hx⟩ := extractByte_of_telemetry (q := q) (i := i) (upTo := upTo) (b := b) he
    rw [hx]
    exact h.trans (List.sublist_append_left l [b])
  | false =>
    obtain ⟨seg, overflow, hx⟩ := extractByte_of_payload (q := q) (i := i) (upTo := upTo) (b := b) he
    rw [hx]
    exact h.append (List.Sublist.refl [b])

end OneByte

theorem extract_payload_sublist (q : ExtractParams) (carry : Bool) (count : Word) (rxb : List Byte) :
    (extract q carry count rxb).payload.Sublist rxb := by
  induction rxb using List.reverseRecOn with
  | nil => exact List.Sublist.refl []
  | append_singleton rxb b ih => exact extract_concat .. ▸ extractByte_payload_sublist ih

/-! ### A buffer without markers, and the first byte after a carry (R324) -/

/-- With no segment end, every byte is payload of the one segment that stays open. -/
theorem extract_of_no_segEnd {q : ExtractParams} {rxb : List Byte} (count : Word)
    (h : ∀ upTo, upTo <+: rxb → upTo ≠ [] → q.segEnd upTo = false) :
    extract q false count rxb =
      { startCursor false count with payload := rxb, start := if rxb = [] then none else some 0 } := by
  induction rxb using List.reverseRecOn with
  | nil => rfl
  | append_singleton rxb b ih =>
    have hbefore := ih fun upTo hp => h upTo (hp.trans (List.prefix_append rxb [b]))
    have hend : q.segEnd (rxb ++ [b]) = false := h _ List.prefix_rfl (by simp)
    rw [extract_concat, hbefore, extractByte_inside rfl hend]
    cases rxb <;> rfl

/-- After a carried byte `b` and the bytes `rest`: `b` is no payload and lies in no segment, and it is the first
sample where carried samples are recorded. -/
structure CarriedFirst (q : ExtractParams) (b : Byte) (rest : List Byte) (c : Cursor) : Prop where
  payload : c.payload.Sublist rest
  segAfter : ∀ g ∈ c.seg, 1 ≤ g.first
  openAfter : ∀ first, c.start = some first → 1 ≤ first
  sample : q.carryRecorded = true → c.smp.head? = some b

theorem CarriedFirst.extractByte {q : ExtractParams} {b : Byte} {rest : List Byte} {c : Cursor}
    (h : CarriedFirst q b rest c) {i : Nat} (hi : 1 ≤ i) (upTo : List Byte) (x : Byte) :
    CarriedFirst q b (rest ++ [x]) (extractByte q i upTo x c) := by
  have hpayload : (Machine.extractByte q i upTo x c).payload.Sublist (rest ++ [x]) :=
    extractByte_payload_sublist h.payload
  have hfirst : 1 ≤ c.start.getD i := by
    cases hs : c.start with
    | none => exact hi
    | some first => exact h.openAfter first hs
  rcases extractByte_cases q i upTo x c with
    ⟨-, -, hx⟩ | ⟨-, o, hx⟩ | ⟨-, hx⟩ | ⟨-, -, hx⟩ | ⟨-, hx⟩ <;> rw [hx] at hpayload ⊢
  · exact ⟨hpayload, h.segAfter, h.openAfter, fun hr => by simp [h.sample hr]⟩
  · exact ⟨hpayload, h.segAfter, h.openAfter, h.sample⟩
  · refine ⟨hpayload, h.segAfter, ?_, h.sample⟩
    rintro _ ⟨⟩
    exact hfirst
  · refine ⟨hpayload, ?_, nofun, h.sample⟩
    simp only [List.forall_mem_append, List.forall_mem_singleton]
    exact ⟨h.segAfter, hfirst⟩
  · exact ⟨hpayload, h.segAfter, nofun, h.sample⟩

theorem extract_carriedFirst {q : ExtractParams} (hroom : 1 ≤ q.maxSeg) (count : Word) (b : Byte)
    (rest : List Byte) : CarriedFirst q b rest (extract q true count (b :: rest)) := by
  induction rest using List.reverseRecOn with
  | nil =>
    have hone : extract q true count [b] = extractByte q 0 [b] b (startCursor true count) := rfl
    by_cases hr : 0 < 0 ∨ q.carryRecorded = true
    · rw [hone, extractByte_recorded rfl hr, pushUpTo_of_lt (Nat.lt_of_succ_le hroom)]
      exact ⟨List.Sublist.refl [], nofun, nofun, fun _ => rfl⟩
    · rw [hone, extractByte_unrecorded rfl hr]
      exact ⟨List.Sublist.refl [], nofun, nofun, fun h => absurd (.inr h) hr⟩
  | append_singleton rest x ih =>
    rw [← List.cons_append, extract_concat]
    exact ih.extractByte (Nat.le_add_left 1 _) _ x

/-! ### Two capacities (R311) -/

/-- `c`, found with the smaller capacity `m`, is `d` with its stores cut off at `m`; with no overflow nothing was
cut off. -/
structure CutOff (m : Nat) (c d : Cursor) : Prop where
  payload : c.payload = d.payload
  expect : c.expect = d.expect
  start : c.start = d.start
  rxSegments : c.rxSegments = d.rxSegments
  smp : c.smp = d.smp.take m
  seg : c.seg = d.seg.take m
  whole : c.overflow = false → d.overflow = false ∧ d.smp.length ≤ m ∧ d.seg.length ≤ m

theorem CutOff.extractByte {segEnd : List Byte → Bool} {m n : Nat} {record : Bool} {c d : Cursor} (hmn : m ≤ n)
    (h : CutOff m c d) (i : Nat) (upTo : List Byte) (b : Byte) :
    CutOff m (extractByte ⟨segEnd, m, record⟩ i upTo b c) (extractByte ⟨segEnd, n, record⟩ i upTo b d) := by
  obtain ⟨hpayload, hexpect, hstart, hcount, hsmp, hseg, hwhole⟩ := h
  cases hd : d.expect with
  | true =>
    rw [hd] at hexpect
    by_cases hr : 0 < i ∨ record = true
    · rw [extractByte_recorded hexpect hr, extractByte_recorded hd hr]
      refine ⟨hpayload, rfl, hstart, hcount, pushUpTo_eq_take hmn hsmp b, hseg, fun ho => ?_⟩
      obtain ⟨hco, hroom⟩ := Bool.or_eq_false_iff.1 ho
      obtain ⟨hdo, -, hsegs⟩ := hwhole hco
      obtain ⟨hroom', hsmps⟩ := room_of_eq_take hmn hsmp hroom b
      exact ⟨Bool.or_eq_false_iff.2 ⟨hdo, hroom'⟩, hsmps, hsegs⟩
    · rw [extractByte_unrecorded hexpect hr, extractByte_unrecorded hd hr]
      exact ⟨hpayload, rfl, hstart, hcount, hsmp, hseg, hwhole⟩
  | false =>
    rw [hd] at hexpect
    cases hs : segEnd upTo with
    | false =>
      rw [extractByte_inside hexpect hs, extractByte_inside hd hs, hpayload, hstart]
      exact ⟨rfl, rfl, rfl, hcount, hsmp, hseg, hwhole⟩
    | true =>
      rw [extractByte_closing hexpect hs, extractByte_closing hd hs, hpayload, hstart, hcount]
      refine ⟨rfl, rfl, rfl, rfl, hsmp, pushUpTo_eq_take hmn hseg _, fun ho => ?_⟩
      obtain ⟨hco, hroom⟩ := Bool.or_eq_false_iff.1 ho
      obtain ⟨hdo, hsmps, -⟩ := hwhole hco
      obtain ⟨hroom', hsegs⟩ := room_of_eq_take hmn hseg hroom _
      exact ⟨Bool.or_eq_false_iff.2 ⟨hdo, hroom'⟩, hsmps, hsegs⟩

theorem extract_cutOff (segEnd : List Byte → Bool) {m n : Nat} (hmn : m ≤ n) (record carry : Bool) (count : Word)
    (rxb : List Byte) :
    CutOff m (extract ⟨segEnd, m, record⟩ carry count rxb) (extract ⟨segEnd, n, record⟩ carry count rxb) := by
  induction rxb using List.reverseRecOn with
  | nil => exact ⟨rfl, rfl, rfl, rfl, List.take_nil.symm, List.take_nil.symm, fun _ => ⟨rfl, m.zero_le, m.zero_le⟩⟩
  | append_singleton rxb b ih =>
    rw [extract_concat, extract_concat]
    exact ih.extractByte hmn _ _ b

/-- Payload, carry, open segment and count, for any two capacities. -/
theorem extract_eq_of_maxSeg (segEnd : List Byte → Bool) (m n : Nat) (record carry : Bool) (count : Word)
    (rxb : List Byte) :
    let c := extract ⟨segEnd, m, record⟩ carry count rxb
    let d := extract ⟨segEnd, n, record⟩ carry count rxb
    c.payload = d.payload ∧ c.expect = d.expect ∧ c.start = d.start ∧ c.rxSegments = d.rxSegments := by
  rcases le_total m n with hmn | hnm
  · have h := extract_cutOff segEnd hmn record carry count rxb
    exact ⟨h.payload, h.expect, h.start, h.rxSegments⟩
  · have h := extract_cutOff segEnd hnm record carry count rxb
    exact ⟨h.payload.symm, h.expect.symm, h.start.symm, h.rxSegments.symm⟩

theorem extract_cursorOk (q : ExtractParams) (carry : Bool) (count : Word) (rxb : List Byte) :
    CursorOk q rxb.length (extract q carry count rxb) :=
  CursorOk.extractLoop (before := []) rxb ⟨Nat.zero_le _, Nat.zero_le _, nofun, nofun⟩

/-! ### Without overflow -/

/-- What one byte does when it does not overflow: every sample and every segment is stored. -/
inductive StoredByte (q : ExtractParams) (i : Nat) (upTo : List Byte) (b : Byte) (c : Cursor) : Cursor → Prop where
  | sample (he : c.expect = true) (hr : 0 < i ∨ q.carryRecorded = true) :
      StoredByte q i upTo b c { c with smp := c.smp ++ [b], expect := false }
  | unrecorded (he : c.expect = true) (hi : i = 0) (hr : q.carryRecorded = false) :
      StoredByte q i upTo b c { c with expect := false }
  | inside (he : c.expect = false) (hs : q.segEnd upTo = false) :
      StoredByte q i upTo b c
        { c with payload := c.payload ++ [b], start := some (c.start.getD i), expect := false }
  | closing (he : c.expect = false) (hs : q.segEnd upTo = true) :
      StoredByte q i upTo b c
        { c with payload := c.payload ++ [b], seg := c.seg ++ [⟨c.start.getD i, i⟩]
                 rxSegments := c.rxSegments + 1, start := none, expect := true }

/-- Overflow stays once it is set, so without it at the end there was room for every byte (R311). -/
theorem extractByte_storedByte {q : ExtractParams} {i : Nat} {upTo : List Byte} {b : Byte} {c : Cursor}
    (ho : (extractByte q i upTo b c).overflow = false) :
    c.overflow = false ∧ StoredByte q i upTo b c (extractByte q i upTo b c) := by
  cases he : c.expect with
  | true =>
    by_cases hr : 0 < i ∨ q.carryRecorded = true
    · rw [extractByte_recorded he hr] at ho ⊢
      obtain ⟨hco, hroom⟩ := Bool.or_eq_false_iff.1 ho
      have hlt : c.smp.length < q.maxSeg := by simpa using hroom
      rw [hroom, pushUpTo_of_lt hlt, Bool.or_false]
      exact ⟨hco, .sample he hr⟩
    · rw [extractByte_unrecorded he hr] at ho ⊢
      obtain ⟨hi, hrec⟩ := not_or.1 hr
      exact ⟨ho, .unrecorded he (Nat.eq_zero_of_not_pos hi) (Bool.eq_false_of_not_eq_true hrec)⟩
  | false =>
    cases hs : q.segEnd upTo with
    | false =>
      rw [extractByte_inside he hs] at ho ⊢
      exact ⟨ho, .inside he hs⟩
    | true =>
      rw [extractByte_closing he hs] at ho ⊢
      obtain ⟨hco, hroom⟩ := Bool.or_eq_false_iff.1 ho
      have hlt : c.seg.length < q.maxSeg := by simpa using hroom
      rw [hroom, pushUpTo_of_lt hlt, Bool.or_false]
      exact ⟨hco, .closing he hs⟩

/-- What the start has and every byte without overflow keeps holds of a buffer without overflow. -/
theorem extract_of_storedByte {q : ExtractParams} {carry : Bool} {count : Word} {P : List Byte → Cursor → Prop}
    (hstart : P [] (startCursor carry count))
    (hbyte : ∀ {rxb b c d}, P rxb c → StoredByte q rxb.length (rxb ++ [b]) b c d → P (rxb ++ [b]) d)
    {rxb : List Byte} (ho : (extract q carry count rxb).overflow = false) : P rxb (extract q carry count rxb) := by
  induction rxb using List.reverseRecOn with
  | nil => exact hstart
  | append_singleton rxb b ih =>
    rw [extract_concat] at ho ⊢
    obtain ⟨hbefore, hstored⟩ := extractByte_storedByte ho
    exact hbyte (ih hbefore) hstored

/-! ### Every byte and every segment accounted for (R300, R305, R309, R312) -/

/-- How many of the first `n` bytes were telemetry but no sample: the carried byte where carried samples are not
recorded (R305). -/
def unrecordedBytes (q : ExtractParams) (carry : Bool) (n : Nat) : Nat :=
  if carry = true ∧ q.carryRecorded = false ∧ 0 < n then 1 else 0

theorem unrecordedBytes_zero (q : ExtractParams) (carry : Bool) : unrecordedBytes q carry 0 = 0 := by
  simp [unrecordedBytes]

theorem unrecordedBytes_one {q : ExtractParams} (hr : q.carryRecorded = false) :
    unrecordedBytes q true 1 = 1 := by
  simp [unrecordedBytes, hr]

/-- No byte but the first, and not that one unless it is carried and not recorded. -/
theorem unrecordedBytes_succ {q : ExtractParams} {carry : Bool} {n : Nat}
    (h : 0 < n ∨ q.carryRecorded = true ∨ carry = false) :
    unrecordedBytes q carry (n + 1) = unrecordedBytes q carry n := by
  rcases h with h | h | h <;> simp [unrecordedBytes, h]

/-- A buffer with a byte in it: what is not recorded of a carry is the carry that is no sample. -/
theorem unrecordedBytes_of_ne_nil {rxb : List Byte} (h : rxb ≠ []) (q : ExtractParams) (carry : Bool) :
    unrecordedBytes q carry rxb.length = if carry = true ∧ q.carryRecorded = false then 1 else 0 := by
  simp [unrecordedBytes, List.length_pos_iff.2 h]

/-- After the bytes `rxb`, without overflow: each is payload, a sample or the unrecorded carried byte; and the carry
and the segments have each their telemetry byte, had or still due. -/
structure Accounted (q : ExtractParams) (carry : Bool) (rxb : List Byte) (c : Cursor) : Prop where
  atStart : rxb = [] → c.expect = carry
  bytes : c.payload.length + c.smp.length + unrecordedBytes q carry rxb.length = rxb.length
  telemetry : c.smp.length + unrecordedBytes q carry rxb.length + c.expect.toNat = carry.toNat + c.seg.length

theorem accounted_startCursor (q : ExtractParams) (carry : Bool) (count : Word) :
    Accounted q carry [] (startCursor carry count) where
  atStart _ := rfl
  bytes := by simp [startCursor, unrecordedBytes_zero]
  telemetry := by simp [startCursor, unrecordedBytes_zero]

/-- Before the first byte nothing but the carry is due. -/
theorem Accounted.pos_or_carry {q : ExtractParams} {carry : Bool} {rxb : List Byte} {c : Cursor}
    (h : Accounted q carry rxb c) : 0 < rxb.length ∨ c.expect = carry := by
  cases rxb with
  | nil => exact .inr (h.atStart rfl)
  | cons _ _ => exact .inl (Nat.succ_pos _)

theorem Accounted.storedByte {q : ExtractParams} {carry : Bool} {rxb : List Byte} {b : Byte} {c d : Cursor}
    (h : Accounted q carry rxb c) (hx : StoredByte q rxb.length (rxb ++ [b]) b c d) :
    Accounted q carry (rxb ++ [b]) d := by
  have hbytes := h.bytes
  have htelemetry := h.telemetry
  have hlen : (rxb ++ [b]).length = rxb.length + 1 := List.length_append
  have hpayload : c.expect = false →
      unrecordedBytes q carry (rxb.length + 1) = unrecordedBytes q carry rxb.length := fun he =>
    unrecordedBytes_succ (h.pos_or_carry.imp id fun hc => .inr (hc.symm.trans he))
  refine ⟨by simp, ?bytes, ?telemetry⟩ <;> rw [hlen]
  case bytes =>
    cases hx with
    | sample he hr =>
      simp only [List.length_append, List.length_singleton, unrecordedBytes_succ (hr.imp id .inl)]
      omega
    | unrecorded he hi hr =>
      obtain rfl : carry = true := (h.atStart (List.length_eq_zero_iff.1 hi)).symm.trans he
      simp only [hi, unrecordedBytes_zero, unrecordedBytes_one hr] at hbytes ⊢
      omega
    | inside he _ | closing he _ =>
      simp only [List.length_append, List.length_singleton, hpayload he]
      omega
  case telemetry =>
    cases hx with
    | sample he hr =>
      simp only [he, Bool.toNat_true, Bool.toNat_false, List.length_append, List.length_singleton,
        unrecordedBytes_succ (hr.imp id .inl)] at htelemetry ⊢
      omega
    | unrecorded he hi hr =>
      obtain rfl : carry = true := (h.atStart (List.length_eq_zero_iff.1 hi)).symm.trans he
      simp only [he, Bool.toNat_true, Bool.toNat_false, hi, unrecordedBytes_zero, unrecordedBytes_one hr]
        at htelemetry ⊢
      omega
    | inside he _ | closing he _ =>
      simp only [he, Bool.toNat_true, Bool.toNat_false, List.length_append, List.length_singleton,
        hpayload he] at htelemetry ⊢
      omega

theorem extract_accounted {q : ExtractParams} {carry : Bool} {count : Word} {rxb : List Byte}
    (ho : (extract q carry count rxb).overflow = false) : Accounted q carry rxb (extract q carry count rxb) :=
  extract_of_storedByte (accounted_startCursor q carry count) Accounted.storedByte ho

/-! ### Where the samples stand (R305, R306, R312) -/

/-- Samples before those of the buffer's own segments: the recorded carried one. -/
def carriedSamples (q : ExtractParams) (carry : Bool) : Nat :=
  if carry = true ∧ q.carryRecorded = true then 1 else 0

theorem carriedSamples_eq_one {q : ExtractParams} {carry : Bool} (h : carriedSamples q carry = 1) :
    carry = true ∧ q.carryRecorded = true := by
  by_contra hn
  rw [carriedSamples, if_neg hn] at h
  cases h

/-- The carry is a sample or the unrecorded byte. -/
theorem carriedSamples_add_unrecordedBytes (q : ExtractParams) (carry : Bool) {n : Nat} (hn : 0 < n) :
    carriedSamples q carry + unrecordedBytes q carry n = carry.toNat := by
  cases carry <;> cases hr : q.carryRecorded <;> simp [carriedSamples, unrecordedBytes, hr, hn]

/-- After the bytes `rxb`, without overflow: the recorded carried sample is the first byte, every further sample the
byte after its segment, and the segment whose telemetry byte is due ends at the last byte. -/
structure SamplesPlaced (q : ExtractParams) (carry : Bool) (rxb : List Byte) (c : Cursor) : Prop
    extends Accounted q carry rxb c where
  carried : carriedSamples q carry = 1 → c.smp[0]? = rxb[0]?
  due : c.expect = true → rxb ≠ [] → ∃ g, c.seg.getLast? = some g ∧ g.last + 1 = rxb.length
  placed : ∀ j, carriedSamples q carry + j < c.smp.length →
    ∃ g, c.seg[j]? = some g ∧ rxb[g.last + 1]? = c.smp[carriedSamples q carry + j]?

theorem samplesPlaced_startCursor (q : ExtractParams) (carry : Bool) (count : Word) :
    SamplesPlaced q carry [] (startCursor carry count) where
  toAccounted := accounted_startCursor q carry count
  carried _ := rfl
  due _ h := absurd rfl h
  placed _ h := absurd h (Nat.not_lt_zero _)

/-- With a byte taken, samples had or due are the recorded carried one and one for each segment. -/
theorem Accounted.samples {q : ExtractParams} {carry : Bool} {rxb : List Byte} {c : Cursor}
    (h : Accounted q carry rxb c) (hne : rxb ≠ []) :
    c.smp.length + c.expect.toNat = carriedSamples q carry + c.seg.length := by
  have htelemetry := h.telemetry
  have hcarry := carriedSamples_add_unrecordedBytes q carry (List.length_pos_iff.2 hne)
  omega

theorem Accounted.smp_of_nil {q : ExtractParams} {carry : Bool} {c : Cursor} (h : Accounted q carry [] c) :
    c.smp = [] := by
  have hbytes := h.bytes
  rw [List.length_nil] at hbytes
  exact List.length_eq_zero_iff.1 (by omega)

/-- What stands at a place of two lists alike stays there when both grow. -/
theorem getElem?_append_eq {α : Type} {xs ys : List α} {i j : Nat} (hj : j < ys.length) (h : xs[i]? = ys[j]?)
    (xs' ys' : List α) : (xs ++ xs')[i]? = (ys ++ ys')[j]? := by
  have hi : i < xs.length := by
    rw [List.getElem?_eq_getElem hj] at h
    exact (List.getElem?_eq_some_iff.1 h).1
  rw [List.getElem?_append_left hi, List.getElem?_append_left hj, h]

section Grow

variable {q : ExtractParams} {carry : Bool} {rxb : List Byte} {b : Byte} {c : Cursor}

theorem SamplesPlaced.carried_append (h : SamplesPlaced q carry rxb c) (hne : rxb ≠ []) (smps : List Byte)
    (hone : carriedSamples q carry = 1) : (c.smp ++ smps)[0]? = (rxb ++ [b])[0]? :=
  getElem?_append_eq (List.length_pos_iff.2 hne) (h.carried hone) smps [b]

theorem SamplesPlaced.placed_append (h : SamplesPlaced q carry rxb c) (smps : List Byte) (segs : List Segment)
    {j : Nat} (hj : carriedSamples q carry + j < c.smp.length) :
    ∃ g, (c.seg ++ segs)[j]? = some g ∧
      (rxb ++ [b])[g.last + 1]? = (c.smp ++ smps)[carriedSamples q carry + j]? := by
  obtain ⟨g, hg, hbyte⟩ := h.placed j hj
  have hjs : j < c.seg.length := (List.getElem?_eq_some_iff.1 hg).1
  exact ⟨g, by rw [List.getElem?_append_left hjs, hg], getElem?_append_eq hj hbyte [b] smps⟩

/-- A recorded telemetry byte is the sample of the segment before it, which is the last one. -/
theorem SamplesPlaced.placed_sample (h : SamplesPlaced q carry rxb c) (he : c.expect = true) (hne : rxb ≠ [])
    {j : Nat} (hj : carriedSamples q carry + j = c.smp.length) :
    ∃ g, c.seg[j]? = some g ∧ (rxb ++ [b])[g.last + 1]? = (c.smp ++ [b])[carriedSamples q carry + j]? := by
  have hcount := h.samples hne
  rw [he, Bool.toNat_true] at hcount
  obtain ⟨g, hg, hlast⟩ := h.due he hne
  have hj' : j = c.seg.length - 1 := by omega
  rw [List.getLast?_eq_getElem?, ← hj'] at hg
  exact ⟨g, hg, by rw [hlast, hj, List.getElem?_concat_length, List.getElem?_concat_length]⟩

/-- Inside payload a recorded carry has had its byte. -/
theorem Accounted.ne_nil_of_payload (h : Accounted q carry rxb c) (he : c.expect = false)
    (hone : carriedSamples q carry = 1) : rxb ≠ [] := fun hnil => by
  have hcarry := (h.atStart hnil).symm.trans he
  rw [(carriedSamples_eq_one hone).1] at hcarry
  cases hcarry

theorem SamplesPlaced.storedByte {d : Cursor} (h : SamplesPlaced q carry rxb c)
    (hx : StoredByte q rxb.length (rxb ++ [b]) b c d) : SamplesPlaced q carry (rxb ++ [b]) d := by
  refine { toAccounted := h.toAccounted.storedByte hx, carried := ?carried, due := ?due, placed := ?placed }
  case carried =>
    intro hone
    cases hx with
    | sample _ _ =>
      by_cases hnil : rxb = []
      · subst hnil
        rw [h.smp_of_nil]
      · exact h.carried_append hnil [b] hone
    | unrecorded _ _ hr => exact absurd (hr.symm.trans (carriedSamples_eq_one hone).2) Bool.false_ne_true
    | inside he _ | closing he _ =>
      simpa using h.carried_append (b := b) (h.ne_nil_of_payload he hone) [] hone
  case due =>
    cases hx with
    | closing _ _ => exact fun _ _ => ⟨_, List.getLast?_concat, by simp⟩
    | _ => nofun
  case placed =>
    intro j hj
    cases hx with
    | sample he hr =>
      rw [List.length_append, List.length_singleton] at hj
      rcases Nat.lt_succ_iff_lt_or_eq.1 hj with hlt | heq
      · simpa using h.placed_append (b := b) [b] [] hlt
      · by_cases hnil : rxb = []
        · subst hnil
          have hcarry : carriedSamples q carry = 1 :=
            if_pos ⟨(h.atStart rfl).symm.trans he, hr.resolve_left (Nat.lt_irrefl 0)⟩
          rw [h.smp_of_nil, hcarry, List.length_nil] at heq
          omega
        · exact h.placed_sample he hnil heq
    | unrecorded _ _ _ | inside _ _ => simpa using h.placed_append (b := b) [] [] hj
    | closing _ _ => simpa using h.placed_append (b := b) [] _ hj

end Grow

theorem extract_samplesPlaced {q : ExtractParams} {carry : Bool} {count : Word} {rxb : List Byte}
    (ho : (extract q carry count rxb).overflow = false) :
    SamplesPlaced q carry rxb (extract q carry count rxb) :=
  extract_of_storedByte (samplesPlaced_startCursor q carry count) SamplesPlaced.storedByte ho

/-! ### Counters and values (R313 to R315, R320, R321) -/

theorem diagDeferred_ofNat (overflow expect : Bool) :
    diagDeferred (BitVec.ofNat 2 (2 * overflow.toNat + expect.toNat)) = expect := by
  revert overflow expect; decide

theorem exec_txSegInc (s : State) :
    exec .txSegInc s = .next (answered [] { s with txSegments := s.txSegments + 1 }) := rfl

theorem exec_tlmReset (s : State) : exec .tlmReset s = .next (answered [] { s with
    tlmCarry := false, rxSegments := 0, txSegments := 0, smp := [], seg := [], tail := none, diag := 0 }) := rfl

theorem dbm_eq_mul (raw : Byte) : dbm raw = -(1 / 2) * (raw.toNat : Rat) := by
  rw [dbm]; ring

theorem dbm_zero : dbm 0 = 0 := by
  rw [dbm_eq_mul]; simp

theorem dbm_ne_zero {raw : Byte} (h : raw ≠ 0) : dbm raw ≠ 0 := by
  have hnat : (raw.toNat : Rat) ≠ 0 := Nat.cast_ne_zero.2 fun h0 => h (BitVec.eq_of_toNat_eq h0)
  rw [dbm_eq_mul]
  exact mul_ne_zero (by norm_num) hnat

/-- The halves and the signs of DBM cancel in the quotient (R313, R315). -/
theorem dbm_div_dbm (raw f : Byte) : dbm raw / dbm f = (raw.toNat : Rat) / (f.toNat : Rat) := by
  rw [dbm_eq_mul, dbm_eq_mul]
  exact mul_div_mul_left _ _ (by norm_num)

theorem sampleSnr_of_some {s : State} {k : Nat} {raw f : Byte} (hraw : s.smp[k]? = some raw)
    (hfloor : s.floor = some f) : sampleSnr s k = snr (dbm raw) (dbm f) := by
  rw [sampleSnr, hraw, hfloor]

theorem sampleSnr_of_no_sample {s : State} {k : Nat} (h : s.smp[k]? = none) : sampleSnr s k = none := by
  rw [sampleSnr, h]

theorem sampleSnr_of_no_floor {s : State} (k : Nat) (h : s.floor = none) : sampleSnr s k = none := by
  rw [sampleSnr, h]
  cases s.smp[k]? <;> rfl

end Sys2Proof.Machine

/-!
PROOFS. The statements of spec/44_telemetry.md about the extractor, the counters and the values.
-/

namespace Sys2Proof.Proofs

open Sys2Proof Sys2Proof.Machine

/-- Settles O44: without a marker one segment stays open; a marker at the end leaves a telemetry byte due; a carried
byte comes before all payload. -/
theorem markerFreeBuffersAndContinuation : Obligations.MarkerFreeBuffersAndContinuation := by
  intro q carry count rxb b
  refine ⟨fun hne hfree => ?free, fun he hend => ?last, fun hroom => ?carried⟩
  case free =>
    have hx := extract_of_no_segEnd (q := q) count hfree
    rw [if_neg hne] at hx
    rw [hx]
    exact ⟨rfl, rfl⟩
  case last => rw [extract_concat, extractByte_closing he hend]
  case carried =>
    have h := extract_carriedFirst hroom count b rxb
    exact ⟨h.payload, h.segAfter, h.sample⟩

/-- Settles O45: one turn of the loop is a telemetry byte or a payload byte, and a whole call leaves what the loop
found. -/
theorem eachByteIsPayloadOrTelemetry : Obligations.EachByteIsPayloadOrTelemetry := by
  intro q carry count rxb b c d
  have hd : d = extractByte q rxb.length (rxb ++ [b]) b c := extract_concat q carry count rxb b
  refine ⟨fun he => ?telemetry, fun he => ?payload, fun s hq hp hcarry hcount hmax => ?call⟩
  case telemetry =>
    obtain ⟨smp, overflow, hsmp, hx⟩ := extractByte_of_telemetry he
    rw [hd, hx]
    exact ⟨rfl, rfl, rfl, rfl, rfl, hsmp⟩
  case payload =>
    obtain ⟨seg, overflow, hx⟩ := extractByte_of_payload he
    rw [hd, hx]
    exact ⟨rfl, rfl, rfl, rfl, rfl⟩
  case call =>
    subst hq hcarry hcount
    have hlen : (rxb ++ [b]).length = rxb.length + 1 := List.length_append
    have hrun := runExec_tlmExtract (c := d) hp (by omega) (hlen ▸ hmax) rfl
    exact ⟨_, hrun, rfl, diagDeferred_ofNat d.overflow d.expect, rfl⟩

/-- Settles O46: the smaller capacity leaves the stores of the larger one, cut off. -/
theorem capacityOnlyLimitsStoring : Obligations.CapacityOnlyLimitsStoring := by
  intro segEnd m n record carry count rxb c d
  obtain ⟨hpayload, hexpect, hstart, hcount⟩ := extract_eq_of_maxSeg segEnd m n record carry count rxb
  have hok := extract_cursorOk ⟨segEnd, m, record⟩ carry count rxb
  refine ⟨hpayload, hexpect, hstart, hcount, hok.samples, hok.segments, fun hmn => ?stores⟩
  case stores =>
    have h : CutOff m c d := extract_cutOff segEnd hmn record carry count rxb
    refine ⟨h.smp ▸ List.take_prefix m d.smp, h.seg ▸ List.take_prefix m d.seg, fun ho => ?whole⟩
    case whole =>
      obtain ⟨hdo, hsmp, hseg⟩ := h.whole ho
      exact ⟨h.smp.trans (List.take_of_length_le hsmp), h.seg.trans (List.take_of_length_le hseg), hdo⟩

/-- Settles O47: every sample stands after its segment, and samples had or due are as many as the segments and the
recorded carry. -/
theorem samplesFollowTheirSegments : Obligations.SamplesFollowTheirSegments := by
  intro q carry count rxb hne c k0 ho
  have h : SamplesPlaced q carry rxb c := extract_samplesPlaced ho
  refine ⟨?count, h.carried, fun j hj => ?further⟩
  case count =>
    rw [← Bool.cond_eq_ite]
    exact h.samples hne
  case further =>
    obtain ⟨g, hg, hbyte⟩ := h.placed j hj
    exact ⟨g, hg, hbyte.symm⟩

/-- Settles O48: each byte adds to one of the three lengths. -/
theorem payloadAndSamplesAddUp : Obligations.PayloadAndSamplesAddUp := by
  intro q carry count rxb hne c
  refine ⟨extract_payload_sublist q carry count rxb, fun ho => ?lengths⟩
  case lengths =>
    have hbytes := (extract_accounted ho).bytes
    rwa [unrecordedBytes_of_ne_nil hne] at hbytes

/-- Settles O50: a `Word` counts modulo 2^32, and the reset sets nothing else. -/
theorem countersIncrementAndReset : Obligations.CountersIncrementAndReset := fun s =>
  ⟨⟨s.txSegments + 1, BitVec.toNat_add s.txSegments 1, exec_txSegInc s⟩, exec_tlmReset s⟩

/-- Settles O52: DBM is a fixed multiple of the raw byte, which cancels in the quotient; a floor byte of 0 is a zero
floor. -/
theorem snrIsQuotientOfRawBytes : Obligations.SnrIsQuotientOfRawBytes := by
  refine ⟨dbm_eq_mul, fun s k => ⟨fun raw f hraw hfloor hf => ?quotient, fun hmiss => ?none⟩⟩
  case quotient => rw [sampleSnr_of_some hraw hfloor, snr, if_neg (dbm_ne_zero hf), dbm_div_dbm]
  case none =>
    rcases hmiss with hsample | hfloor | hzero
    · exact sampleSnr_of_no_sample hsample
    · exact sampleSnr_of_no_floor k hfloor
    · cases hraw : s.smp[k]? with
      | none => exact sampleSnr_of_no_sample hraw
      | some raw => rw [sampleSnr_of_some hraw hzero, snr, if_pos dbm_zero]

end Sys2Proof.Proofs

/-!
PROOFS. The statement of spec/70_reset_and_hazards.md.
-/

namespace Sys2Proof.Proofs

open Sys2Proof Sys2Proof.Machine

/-- Settles O54: a step under reset is `resetBlock` alone, whatever `phase` holds. Its fields are those of
`State.reset`, except the history and the host's packets, which stay (log 18). -/
theorem resetAbandonsTheOperation : Obligations.ResetAbandonsTheOperation := by
  intro s hr
  refine ⟨resetBlock (sampleReset s), step_reset hr, resetBlock_record _, resetBlock_pid _, resetBlock_pollInterval _,
    resetBlock_mA _, resetBlock_mB _, resetBlock_phase _, resetBlock_tlmCarry _, resetBlock_rxSegments _,
    resetBlock_txSegments _, resetBlock_floor _, resetBlock_smp _, resetBlock_seg _, resetBlock_tail _,
    resetBlock_diag _, ?responses, ?trace, ?hostCmds⟩
  case responses => rw [resetBlock_responses, sampleReset_responses]
  case trace => rw [resetBlock_trace, sampleReset_trace]
  case hostCmds => rw [resetBlock_hostCmds, sampleReset_hostCmds]

end Sys2Proof.Proofs
